-- ==== Sys2Proof/Word.lean ====
section
/-! DEFINITION. The word types of the core (30_encoding.md R90, R98; 10_state.md R60; 20_memory.md R70). -/

namespace Sys2Proof

/-- One entry of the byte buffer, and every 8-bit register (20_memory.md R70). -/
abbrev Byte := BitVec 8

/-- An event word on an event port (30_encoding.md R98). -/
abbrev EventWord := BitVec 64

/-- A word on the status port (10_state.md R60). -/
abbrev StatusWord := BitVec 32

/-- The class vector of one half-pulse: bit `k` for category `k` (30_encoding.md R93). -/
abbrev ClassVector := BitVec 5

/-- An input word at sample width `sw`: `op` above, `sw` bits of `data` below (30_encoding.md R90). -/
abbrev InputWord (sw : Nat) := BitVec (sw + 2)

end Sys2Proof
end

