-- ==== Sys2Proof/Syntax.lean ====
section
/-! DEFINITION. The four host operations (30_encoding.md R91; spec/opcode_table.json), one constructor a row. -/

namespace Sys2Proof

/-- One input word, decoded. IDLE, RESTART and the reserved word keep the `data` bits the machine ignores (R91), so
that decoding loses no bit of a word (log 18). -/
inductive Instr where
  /-- IDLE: no operation (40_host_operations.md R123). -/
  | idle (data : Nat)
  /-- SAMPLE: consume one sample, `v` being the exact signed value of `data` (40_host_operations.md R122,
  30_encoding.md R92). -/
  | sample (v : Int)
  /-- RESTART: session restart (40_host_operations.md R124). -/
  | restart (data : Nat)
  /-- The reserved operation `0b11` (40_host_operations.md R125). -/
  | reserved (data : Nat)
  deriving DecidableEq, Repr

end Sys2Proof
end

