-- ==== Sys2Proof/WellFormed.lean ====
section
/-! DEFINITION. When an instruction is one that a word of sample width `sw` can spell (30_encoding.md R90, R111). -/

namespace Sys2Proof

/-- `data` fits the `sw` bits of its field (30_encoding.md R90). -/
def dataFits (sw d : Nat) : Bool := decide (d < 2 ^ sw)

/-- `−2^(sw−1) ≤ v < 2^(sw−1)` (30_encoding.md R111), doubled so that it also reads rightly at `sw = 0`. -/
def sampleFits (sw : Nat) (v : Int) : Bool := decide (-(2 ^ sw : Int) ≤ 2 * v ∧ 2 * v < (2 ^ sw : Int))

/-- The instruction has an encoding at sample width `sw`. -/
def Instr.wellFormed (sw : Nat) : Instr → Bool
  | .idle d => dataFits sw d
  | .sample v => sampleFits sw v
  | .restart d => dataFits sw d
  | .reserved d => dataFits sw d

end Sys2Proof
end

