-- ==== Sys2Proof/Decode.lean ====
section
/-! DEFINITION. The decoder of input words and, after it, the encoder, both from 30_encoding.md R90 to R92. -/

namespace Sys2Proof

/-- The `op` field, bits `[SAMPLE_W+1 : SAMPLE_W]` (30_encoding.md R90). -/
def opField (sw : Nat) (w : InputWord sw) : BitVec 2 := w.extractLsb' sw 2

/-- The `data` field, bits `[SAMPLE_W−1 : 0]` (30_encoding.md R90). -/
def dataField (sw : Nat) (w : InputWord sw) : BitVec sw := w.extractLsb' 0 sw

/-- Decoding is total: every word is exactly one of the four rows (30_encoding.md R91, R101). A sample is
`s = sext(data)` (R92). -/
def decodeWord (sw : Nat) (w : InputWord sw) : Instr :=
  match opField sw w with
  | 0b00#2 => .idle (dataField sw w).toNat
  | 0b01#2 => .sample (dataField sw w).toInt
  | 0b10#2 => .restart (dataField sw w).toNat
  | 0b11#2 => .reserved (dataField sw w).toNat

/-- Why a number is no input word. -/
inductive DecodeError where
  /-- The number needs more than `SAMPLE_W + 2` bits, so no word of the port has it (30_encoding.md R90; log 2). -/
  | tooWide
  deriving DecidableEq, Repr

/-- Decode a number presented as an input word at sample width `sw`: total, and what is no word is rejected by
name. -/
def decode (sw n : Nat) : Except DecodeError Instr :=
  if n < 2 ^ (sw + 2) then .ok (decodeWord sw (BitVec.ofNat (sw + 2) n)) else .error .tooWide

/-- The host's question about the opcode table, whose rows are 18-bit words of the default width (30_encoding.md
R91): the instruction the decoder reads from a table word. -/
def decodeTableWord (nbits w : Nat) : Option Instr :=
  if w < 2 ^ nbits then
    match decode 16 w with
    | .ok i => some i
    | .error _ => none
  else none

/-- The operation code of an instruction (30_encoding.md R91). -/
def Instr.op : Instr → BitVec 2
  | .idle _ => 0b00#2
  | .sample _ => 0b01#2
  | .restart _ => 0b10#2
  | .reserved _ => 0b11#2

/-- The `data` bits of an instruction at width `sw`; a sample is stored as `s mod 2^SAMPLE_W` (30_encoding.md R111). -/
def Instr.data (sw : Nat) : Instr → BitVec sw
  | .idle d => BitVec.ofNat sw d
  | .sample v => BitVec.ofInt sw v
  | .restart d => BitVec.ofNat sw d
  | .reserved d => BitVec.ofNat sw d

/-- The word of an instruction: `{op, data}` (30_encoding.md R90, R111). -/
def encode (sw : Nat) (i : Instr) : InputWord sw := (i.op ++ i.data sw).cast (Nat.add_comm 2 sw)

end Sys2Proof
end

