-- ==== Sys2Proof/Config.lean ====
section
/-! DEFINITION. The configuration record CFG and its defaults (00_scope.md R8 to R11), the constants no
configuration changes (R12), and the one value the spec leaves free (20_memory.md R74). What is COMPUTED from a
configuration (expected counts, windows, legality) is in Machine/Classifier.lean. -/

namespace Sys2Proof

/-- The named pulse classes of the source (00_scope.md R18 "Category"). -/
inductive Category where
  | pilot | one | zero | synOn | synOff
  deriving DecidableEq, Repr

namespace Config

/-- CFG: the immutable configuration the core is elaborated from (00_scope.md R8). Field names are the spec's, and
the defaults are those of R9, R10 and R11. -/
structure Cfg where
  /-- T-states a second (R9). -/
  TSTATE_HZ : Nat := 3500000
  /-- T-states of a PILOT half-pulse (R9). -/
  T_PILOT : Nat := 2168
  /-- T-states of a ONE half-pulse (R9). -/
  T_ONE : Nat := 1710
  /-- T-states of a ZERO half-pulse (R9). -/
  T_ZERO : Nat := 855
  /-- T-states of the SYN_ON pulse (R9). -/
  T_SYN_ON : Nat := 667
  /-- T-states of the SYN_OFF pulse (R9). -/
  T_SYN_OFF : Nat := 735
  /-- Sample rate in Hz (R10). -/
  FS : Nat := 44100
  /-- Width in bits of a sample word (R10). -/
  SAMPLE_W : Nat := 16
  /-- Noise-gate threshold in sample LSBs (R10). -/
  NOISE_T : Nat := 20
  /-- Width in bits of the half-pulse length counter (R10). -/
  CNT_W : Nat := 16
  /-- Classification half-windows in samples (R10). -/
  TOL_PILOT : Nat := 1
  TOL_ONE : Nat := 1
  TOL_ZERO : Nat := 1
  TOL_SYN_ON : Nat := 1
  TOL_SYN_OFF : Nat := 1
  /-- Pilot half-pulses to lock while no header is held (R11). -/
  PILOT_LOCK_HDR : Nat := 8063
  /-- Pilot half-pulses to lock while a header is held (R11). -/
  PILOT_LOCK_DATA : Nat := 3223
  /-- Non-PILOT pulses tolerated inside one pilot run (R11). -/
  BAD_PULSE_BUDGET : Nat := 2
  /-- `true` forces the effective budget to 0 (R11). -/
  STRICT_MODE : Bool := false
  /-- Consecutive unaccepted pulses discarded after lock before an error (R11). -/
  UNCLASS_TOL : Nat := 0
  /-- Silence is declared after more than this many samples with no edge (R11). -/
  SILENCE_CYCLE : Nat := 4096
  deriving DecidableEq, Repr

/-- The default configuration (00_scope.md R9 to R11). -/
def Cfg.default : Cfg := {}

/-- The configuration of the spec's programs (95_test_vectors.md section 3): small pilot thresholds. -/
def Cfg.small : Cfg := { PILOT_LOCK_HDR := 4, PILOT_LOCK_DATA := 2 }

/-- BUF_DEPTH: entries of the byte buffer, fixed by the source and not configurable (00_scope.md R12). -/
def bufDepth : Nat := 65537

/-- FREE VALUE (log 6): what read number `draw` of the never-written buffer entry `i` returns. 20_memory.md R74: "any
byte, not fixed between reads". It has no body, so nothing can be proved of its values. -/
opaque freeByte (draw i : Nat) : Byte

end Config

end Sys2Proof
end

