-- ==== Sys2Proof/Machine/State.lean ====
section
/-! DEFINITION. The state of the core as plain data (10_state.md; 20_memory.md R70), the reasons a step can stop,
and the state after reset (10_state.md R62). Registers carry the spec's own names. -/

namespace Sys2Proof.Machine

open Sys2Proof.Config

/-- The acquisition phase (10_state.md R40). The reserved codes 6 and 7, which no rule writes, are no value of this
type (log 15). -/
inductive Phase where
  | searchingPilot | pilotLocked | synWait | readingHeader | readingData | complete
  deriving DecidableEq, Repr

/-- The five decode errors (60_exceptions.md R300). -/
inductive ErrCode where
  | checksumMismatch | missingPulsePair | unclassifiablePulse | prematureEnd | unexpectedBlockType
  deriving DecidableEq, Repr

/-- The events the core produces (30_encoding.md R96, R98). -/
inductive Event where
  | pilotLocked
  | header
  | byte (index : BitVec 17) (value : Byte)
  | error (code : ErrCode)
  | complete (index : BitVec 17)
  deriving DecidableEq, Repr

/-- The host's input pins for one step: `rst`, and the number on the input-word port, which is ignored while `rst` is
held (70_reset_and_hazards.md R333; 40_host_operations.md R120; log 4). -/
structure HostInput where
  rst : Bool
  word : Nat
  deriving DecidableEq, Repr

/-- The byte buffer: `(index, byte)` pairs, indices strictly rising, only the entries a step has written since the
last `rst`. An unlisted entry has NO value (20_memory.md R72, R74; log 6), so no listed byte repeats it. -/
abbrev Memory := List Host.Cell

/-- Everything the core holds. -/
structure State where
  /-- CFG, fixed before reset; no step writes it (00_scope.md R8; log 1). -/
  cfg : Cfg
  /-- SAMPLE words consumed in the session, modulo 2^32 (10_state.md R33). -/
  pos : BitVec 32
  /-- A sample outside the noise gate has been seen (10_state.md R32). -/
  have_prev : Bool
  /-- The sign of the last sample outside the noise gate, `true` if negative (10_state.md R32). -/
  prev_neg : Bool
  /-- Samples since the last edge; a `CNT_W`-bit saturating counter (10_state.md R32, 41_edge_detector.md R146). -/
  cnt : Nat
  /-- The acquisition phase (10_state.md R40). -/
  phase : Phase
  /-- PILOT half-pulses of the current run, saturating (10_state.md R41). -/
  pilot_cnt : BitVec 16
  /-- Non-PILOT half-pulses since the run began (10_state.md R42). -/
  bad_cnt : BitVec 8
  /-- Consecutive half-pulses the phase did not accept (10_state.md R43). -/
  unclass_cnt : BitVec 8
  /-- SYN_ON was matched after lock (10_state.md R44). -/
  syn_on : Bool
  /-- SYN_OFF was matched after SYN_ON (10_state.md R44). -/
  syn_off : Bool
  /-- The first half-pulse of a bit is in (10_state.md R45). -/
  half_pend : Bool
  /-- The category of that first half, `true` for ONE (10_state.md R45). -/
  half_one : Bool
  /-- Bits already shifted into the current byte (10_state.md R46). -/
  bitpos : BitVec 3
  /-- The byte accumulator (10_state.md R46). -/
  sh : BitVec 8
  /-- Bytes of the current block already written, and the next buffer index (10_state.md R47). -/
  bptr : BitVec 17
  /-- Bytes the current block will have, 0 until its type byte (10_state.md R48). -/
  blen : BitVec 17
  /-- XOR of the current block's bytes so far (10_state.md R49). -/
  xsum : BitVec 8
  /-- A header block has passed its checksum in this session (10_state.md R50). -/
  hdr_valid : Bool
  /-- Header file type (10_state.md R50). -/
  hdr_type : BitVec 8
  /-- Header filename bytes, as received (10_state.md R50). -/
  hdr_name : Vector (BitVec 8) 10
  /-- Header data length (10_state.md R50). -/
  hdr_len : BitVec 16
  /-- Header param1 (10_state.md R50). -/
  hdr_p1 : BitVec 16
  /-- Header param2 (10_state.md R50). -/
  hdr_p2 : BitVec 16
  /-- An error event has been produced in this session (10_state.md R51). -/
  err_seen : Bool
  /-- The code of the most recent error event (10_state.md R51). -/
  last_err : BitVec 3
  /-- Error events in this session, saturating (10_state.md R51). -/
  err_cnt : BitVec 16
  /-- A reserved input word was seen; sticky (10_state.md R52). -/
  ill_op : Bool
  /-- Event port slot 0 (10_state.md R53, 30_encoding.md R97). -/
  ev0_valid : Bool
  ev0_word : EventWord
  /-- Event port slot 1 (10_state.md R53, 30_encoding.md R97). -/
  ev1_valid : Bool
  ev1_word : EventWord
  /-- The byte buffer (20_memory.md R70). -/
  buf : Memory
  /-- MODEL'S OWN: numbers the reads of unwritten buffer entries, so that each draws afresh (20_memory.md R74; log 6). -/
  draws : Nat
  /-- MODEL'S OWN: the host's input pins for the coming steps, oldest first (log 4). -/
  input : List HostInput
  deriving DecidableEq, Repr

/-- Why the machine stops with a fault. -/
inductive Fault where
  /-- Raised by ByteDone's write (44_bit_byte_decoder.md R218) when `bptr` is 65537 or more, an entry that does not
  exist (20_memory.md R70). No state reached from reset does it (10_state.md R54 (d)). SAFE: the model stops where the
  spec gives no effect (log 8). -/
  | bufferIndexOutOfRange
  deriving DecidableEq, Repr

/-- Why a step has no meaning. -/
inductive Refusal where
  /-- Raised by `exec` for an instruction that has no meaning yet; no arm raises it. SAFE. -/
  | notModelled (mnemonic : String)
  /-- Raised by `step` when `cfg` is not legal: "A model refuses an illegal configuration: it builds no core from it"
  (00_scope.md R13). SAFE (log 3). -/
  | illegalConfiguration
  /-- Raised by `step` when the number on the input port needs more than `SAMPLE_W + 2` bits: no input word of the
  hardware has it (30_encoding.md R90). SAFE (log 2). -/
  | notAnInputWord
  deriving DecidableEq, Repr

/-- The state after `rst` of a core elaborated from `c`: every register at its value of 10_state.md R62, no buffer
entry with a value (20_memory.md R72), no input waiting (log 14). -/
def State.resetWith (c : Cfg) : State where
  cfg := c
  pos := 0
  have_prev := false
  prev_neg := false
  cnt := 0
  phase := .searchingPilot
  pilot_cnt := 0
  bad_cnt := 0
  unclass_cnt := 0
  syn_on := false
  syn_off := false
  half_pend := false
  half_one := false
  bitpos := 0
  sh := 0
  bptr := 0
  blen := 0
  xsum := 0
  hdr_valid := false
  hdr_type := 0
  hdr_name := #v[0, 0, 0, 0, 0, 0, 0, 0, 0, 0]
  hdr_len := 0
  hdr_p1 := 0
  hdr_p2 := 0
  err_seen := false
  last_err := 0
  err_cnt := 0
  ill_op := false
  ev0_valid := false
  ev0_word := 0
  ev1_valid := false
  ev1_word := 0
  buf := []
  draws := 0
  input := []

/-- The machine right after reset, at the default configuration (10_state.md R62; 00_scope.md R10, R11). -/
def State.reset : State := State.resetWith Cfg.default

end Sys2Proof.Machine
end

