-- ==== Sys2Proof/Machine/Operands.lean ====
section
/-! DEFINITION. The operand forms: a signed sample and its tests (30_encoding.md R92, 41_edge_detector.md R141,
R143), the bits of a class vector (30_encoding.md R93), and a little-endian 16-bit field (20_memory.md R79). -/

namespace Sys2Proof.Machine

open Sys2Proof.Config

/-- `neg(s) = (s < 0)`, the sign test (41_edge_detector.md R143). -/
def sampleNeg (v : Int) : Bool := decide (v < 0)

/-- `|s|`, the exact magnitude, without overflow (00_scope.md R15). -/
def sampleMag (v : Int) : Nat := v.natAbs

/-- The noise gate's condition `|s| < NOISE_T` (41_edge_detector.md R141). -/
def gated (c : Cfg) (v : Int) : Bool := decide (sampleMag v < c.NOISE_T)

/-- The bit of a category in a class vector (30_encoding.md R93). -/
def categoryBit : Category → Nat
  | .pilot => 0
  | .one => 1
  | .zero => 2
  | .synOn => 3
  | .synOff => 4

/-- `C[k] = 1` (30_encoding.md R93). -/
def hasCategory (C : ClassVector) (k : Category) : Bool := C.getLsbD (categoryBit k)

/-- A 16-bit header field from its low byte and its high byte (20_memory.md R79 (b)). -/
def littleEndian (lo hi : Byte) : BitVec 16 := hi ++ lo

end Sys2Proof.Machine
end

