-- ==== Sys2Proof/Machine/Classifier.lean ====
section
/-! DEFINITION. The pulse-width classifier (42_pulse_classifier.md R160 to R164) and the legality of a configuration
(00_scope.md R13). -/

namespace Sys2Proof.Machine

open Sys2Proof.Config

/-- The five categories, in the order of their bits (30_encoding.md R93). -/
def categories : List Category := [.pilot, .one, .zero, .synOn, .synOff]

/-- `T_c` (00_scope.md R9). -/
def tStates (c : Cfg) : Category → Nat
  | .pilot => c.T_PILOT
  | .one => c.T_ONE
  | .zero => c.T_ZERO
  | .synOn => c.T_SYN_ON
  | .synOff => c.T_SYN_OFF

/-- `TOL_c` (42_pulse_classifier.md R161). -/
def tolerance (c : Cfg) : Category → Nat
  | .pilot => c.TOL_PILOT
  | .one => c.TOL_ONE
  | .zero => c.TOL_ZERO
  | .synOn => c.TOL_SYN_ON
  | .synOff => c.TOL_SYN_OFF

/-- T-states to samples, to the nearest integer, a tie rounded up: `floor((2·T·FS + TSTATE_HZ) / (2·TSTATE_HZ))`
(42_pulse_classifier.md R160, 48_line_code_stimulus.md R272). -/
def toSamples (c : Cfg) (t : Nat) : Nat := (2 * t * c.FS + c.TSTATE_HZ) / (2 * c.TSTATE_HZ)

/-- `E_c`, the expected sample count (42_pulse_classifier.md R160). -/
def expectedCount (c : Cfg) (k : Category) : Nat := toSamples c (tStates c k)

/-- `n ∈ W_c`: `|n − E_c| ≤ TOL_c` (42_pulse_classifier.md R162, R163). -/
def inWindow (c : Cfg) (k : Category) (n : Nat) : Bool :=
  decide (((n : Int) - (expectedCount c k : Int)).natAbs ≤ tolerance c k)

/-- Set the bit of a category in a class vector when the length lies in its window. -/
def markCategory (c : Cfg) (n : Nat) (C : ClassVector) (k : Category) : ClassVector :=
  if inWindow c k n then C ||| (1#5 <<< categoryBit k) else C

/-- `class(n)` (42_pulse_classifier.md R163). -/
def classOf (c : Cfg) (n : Nat) : ClassVector := categories.foldl (markCategory c n) 0#5

/-- The last count of a category's window. -/
def windowEnd (c : Cfg) (k : Category) : Nat := expectedCount c k + tolerance c k

/-- The read-only table `LUT[0 .. depth − 1]` an implementation holds (42_pulse_classifier.md R164). -/
def classTable (c : Cfg) (depth : Nat) : List ClassVector := (List.range depth).map (classOf c)

/-- The table's answer: 0 for a length beyond it (42_pulse_classifier.md R164). -/
def tableLookup (lut : List ClassVector) (n : Nat) : ClassVector := lut[n]?.getD 0#5

/-- The windows of two categories share no count. -/
def disjointWindows (c : Cfg) (j k : Category) : Bool :=
  decide (windowEnd c j + tolerance c k < expectedCount c k ∨ windowEnd c k + tolerance c j < expectedCount c j)

/-- A legal configuration: conditions (a) to (j) of 00_scope.md R13, (b) holding of every Nat. -/
def legal (c : Cfg) : Bool :=
  decide (1 ≤ c.NOISE_T)
  && disjointWindows c .zero .one
  && disjointWindows c .pilot .synOn
  && decide (1 ≤ c.PILOT_LOCK_HDR ∧ c.PILOT_LOCK_HDR ≤ 65535 ∧ 1 ≤ c.PILOT_LOCK_DATA ∧ c.PILOT_LOCK_DATA ≤ 65535)
  && decide (c.SILENCE_CYCLE + 1 ≤ 2 ^ c.CNT_W - 1)
  && categories.all (fun k => decide (windowEnd c k < 2 ^ c.CNT_W - 1))
  && decide (c.BAD_PULSE_BUDGET ≤ 254 ∧ c.UNCLASS_TOL ≤ 255)
  && decide (1 ≤ c.FS)
  && categories.all (fun k => decide (windowEnd c k ≤ c.SILENCE_CYCLE))

end Sys2Proof.Machine
end

