-- ==== Sys2Proof/Machine/Flags.lean ====
section
/-! DEFINITION. Counters and computed flags: saturation (00_scope.md R15), the effective budget (43_pilot_sync.md
R183), the lock threshold (R182), `incomplete` (10_state.md R61), and the codes of phases and errors
(10_state.md R40, 30_encoding.md R99). -/

namespace Sys2Proof.Machine

open Sys2Proof.Config

/-- `min(x + 1, 0xFFFF)`: the saturating u16 counters `pilot_cnt` and `err_cnt` (10_state.md R41, R51). -/
def satInc16 (x : BitVec 16) : BitVec 16 := BitVec.ofNat 16 (min (x.toNat + 1) 0xFFFF)

/-- `CMAX = 2^CNT_W − 1` (41_edge_detector.md R140). -/
def cntMax (c : Cfg) : Nat := 2 ^ c.CNT_W - 1

/-- `min(cnt + 1, CMAX)`: the saturating half-pulse counter (41_edge_detector.md R146). -/
def cntInc (c : Cfg) (n : Nat) : Nat := min (n + 1) (cntMax c)

/-- The effective bad-pulse budget (43_pilot_sync.md R183). -/
def badBudget (c : Cfg) : Nat := if c.STRICT_MODE then 0 else c.BAD_PULSE_BUDGET

/-- The lock threshold `thr`, by whether a header is held (43_pilot_sync.md R182). -/
def lockThreshold (s : State) : Nat := if s.hdr_valid then s.cfg.PILOT_LOCK_DATA else s.cfg.PILOT_LOCK_HDR

/-- `incomplete = (phase ≠ 5)` (10_state.md R61). -/
def incomplete (s : State) : Bool := decide (s.phase ≠ .complete)

/-- The code of a phase (10_state.md R40). -/
def phaseCode : Phase → BitVec 3
  | .searchingPilot => 0
  | .pilotLocked => 1
  | .synWait => 2
  | .readingHeader => 3
  | .readingData => 4
  | .complete => 5

/-- The code of an error (30_encoding.md R99). -/
def errorCode : ErrCode → BitVec 3
  | .checksumMismatch => 0
  | .missingPulsePair => 1
  | .unclassifiablePulse => 2
  | .prematureEnd => 3
  | .unexpectedBlockType => 4

end Sys2Proof.Machine
end

