-- ==== Sys2Proof/Machine/Ops.lean ====
section
/-! DEFINITION. The shared operations: the byte buffer (20_memory.md R70 to R74), event words and ports
(30_encoding.md R97, R98), the acquisition reset and the ONE error procedure (60_exceptions.md R303, R305), and reset
(10_state.md R62; 70_reset_and_hazards.md R330, R331). There is no return from an error: 60_exceptions.md R311. -/

namespace Sys2Proof.Machine

open Sys2Proof.Config

/-- The byte of entry `a`, or none where no step has written it since `rst` (20_memory.md R72, R74). -/
def Memory.read? : Memory → Nat → Option Byte
  | [], _ => none
  | (b, v) :: m, a => if a = b then some v else Memory.read? m a

/-- Write `v` to entry `a`, keeping the entries in rising order. -/
def Memory.write : Memory → Nat → Byte → Memory
  | [], a, v => [(a, v)]
  | (b, w) :: m, a, v =>
    if a < b then (a, v) :: (b, w) :: m
    else if a = b then (a, v) :: m
    else (b, w) :: Memory.write m a v

/-- The canonical form: indices strictly rising, and every index an entry of the buffer (20_memory.md R70). -/
abbrev Memory.wf (m : Memory) : Prop :=
  m.Pairwise (fun x y => x.1 < y.1) ∧ ∀ x ∈ m, x.1 < bufDepth

/-- `MemRead(i, 1)` as read number `draw`: an unwritten entry returns a free byte (20_memory.md R74; log 6). -/
def readEntry (draw : Nat) (s : State) (i : Nat) : Byte := (s.buf.read? i).getD (freeByte draw i)

/-- `MemWrite(i, 1, v)` (20_memory.md R71); an entry that does not exist faults (log 8). -/
def writeEntry (i : Nat) (v : Byte) (s : State) : Except Fault State :=
  if i < bufDepth then .ok { s with buf := s.buf.write i v } else .error .bufferIndexOutOfRange

/-- The event word: `[2:0]` kind, `[5:3]` code, `[7:6]` 0, `[15:8]` value, `[32:16]` index, `[63:33]` 0
(30_encoding.md R98). -/
def packEvent (kind code : BitVec 3) (value : Byte) (index : BitVec 17) : EventWord :=
  0#31 ++ index ++ value ++ 0#2 ++ code ++ kind

/-- The word of an event; a field it does not name is 0 (30_encoding.md R96, R98). -/
def eventWord : Event → EventWord
  | .pilotLocked => packEvent 1 0 0 0
  | .header => packEvent 2 0 0 0
  | .byte i v => packEvent 3 0 v i
  | .error e => packEvent 4 (errorCode e) 0 0
  | .complete n => packEvent 5 0 0 n

/-- Slot `k` of an event list is valid when the list reaches it (30_encoding.md R97). -/
def slotValid (evs : List Event) (k : Nat) : Bool := evs[k]?.isSome

/-- The word of slot `k`; an invalid slot's word is 0 (30_encoding.md R97). -/
def slotWord (evs : List Event) (k : Nat) : EventWord := (evs[k]?.map eventWord).getD 0

/-- The end of a step: the event ports are rewritten from the step's list (40_host_operations.md R128). -/
def setSlots (evs : List Event) (s : State) : State :=
  { s with
    ev0_valid := slotValid evs 0
    ev0_word := slotWord evs 0
    ev1_valid := slotValid evs 1
    ev1_word := slotWord evs 1 }

/-- `acq_reset()` (60_exceptions.md R305). -/
def acqReset (s : State) : State :=
  { s with
    phase := .searchingPilot
    pilot_cnt := 0
    bad_cnt := 0
    unclass_cnt := 0
    syn_on := false
    syn_off := false
    half_pend := false
    half_one := false
    bitpos := 0
    sh := 0
    bptr := 0
    blen := 0
    xsum := 0 }

/-- The error log's update (60_exceptions.md R303). -/
def logError (e : ErrCode) (s : State) : State :=
  { s with
    err_seen := true
    last_err := errorCode e
    err_cnt := satInc16 s.err_cnt }

/-- `raise E`: emit ERROR, log, acquisition reset; nothing of the step follows it (60_exceptions.md R303). -/
def raise (e : ErrCode) (s : State) : State × List Event := (acqReset (logError e s), [.error e])

/-- Every register at its reset value (10_state.md R62). CFG, the buffer and the model's own fields are kept. -/
def resetRegisters (s : State) : State :=
  { State.resetWith s.cfg with
    buf := s.buf
    draws := s.draws
    input := s.input }

/-- The `rst` input: RESTART's effect on registers, and every buffer entry unspecified (40_host_operations.md R129;
70_reset_and_hazards.md R330). -/
def applyRst (s : State) : State := { resetRegisters s with buf := [] }

/-- What a protocol rule gives: the new state and the events it emitted, in order, or a fault. -/
abbrev Work := Except Fault (State × List Event)

/-- Close a step: its events go to the ports (40_host_operations.md R121, R128). -/
def finish : Work → Host.Outcome State Fault Refusal
  | .ok (s, evs) => .next (setSlots evs s)
  | .error f => .fault f

end Sys2Proof.Machine
end

