-- ==== Sys2Proof/Machine/EdgeDetector.lean ====
section
/-! DEFINITION. The zero-crossing edge detector (41_edge_detector.md R140 to R148). -/

namespace Sys2Proof.Machine

/-- What `EdgeDetect` gives: the state, the emitted half-pulse length if any, and whether silence was declared. -/
structure EdgeResult where
  st : State
  pulse : Option Nat
  silence : Bool
  deriving DecidableEq, Repr

/-- One more count makes `cnt` exactly `SILENCE_CYCLE + 1`, and by increment: a count that saturates there, and only stays
what it was, is not due (41_edge_detector.md R147; log 10). -/
def silenceDue (s : State) : Bool :=
  decide (cntInc s.cfg s.cnt = s.cnt + 1 ∧ s.cnt + 1 = s.cfg.SILENCE_CYCLE + 1)

/-- One more sample with no edge: count it, and declare silence when it is due, which re-arms the detector
(41_edge_detector.md R141, R145, R147). -/
def countSample (s : State) : EdgeResult :=
  let silence := silenceDue s
  { st := { s with cnt := cntInc s.cfg s.cnt, have_prev := if silence then false else s.have_prev }
    pulse := none
    silence := silence }

/-- The current sample becomes the first of a half-pulse (41_edge_detector.md R142, R144). -/
def startPulse (v : Int) (s : State) : State := { s with have_prev := true, prev_neg := sampleNeg v, cnt := 1 }

/-- The edge test on a sample: not gated, a previous sample held, and a sign unlike its sign (41_edge_detector.md
R143). -/
def isEdge (v : Int) (s : State) : Bool := !gated s.cfg v && s.have_prev && (sampleNeg v != s.prev_neg)

/-- `EdgeDetect(s)` (41_edge_detector.md R140). -/
def edgeDetect (v : Int) (s : State) : EdgeResult :=
  if gated s.cfg v then countSample s
  else if !s.have_prev then { st := startPulse v s, pulse := none, silence := false }
  else if sampleNeg v != s.prev_neg then { st := startPulse v s, pulse := some s.cnt, silence := false }
  else countSample s

end Sys2Proof.Machine
end

