-- ==== Sys2Proof/Machine/BlockFrame.lean ====
section
/-! DEFINITION. The block frame assembler and the XOR checksum validator (45_block_checksum.md R241 to R252). -/

namespace Sys2Proof.Machine

/-- HeaderDone: latch the header, emit HEADER, acquisition reset (45_block_checksum.md R248, R249). The buffer reads
see the byte this step has just written, and they are numbered by `draws` (log 6, log 7). -/
def headerDone (s : State) : State × List Event :=
  let b := readEntry s.draws s
  let latched :=
    { s with
      hdr_type := b 1
      hdr_name := #v[b 2, b 3, b 4, b 5, b 6, b 7, b 8, b 9, b 10, b 11]
      hdr_len := littleEndian (b 12) (b 13)
      hdr_p1 := littleEndian (b 14) (b 15)
      hdr_p2 := littleEndian (b 16) (b 17)
      hdr_valid := true
      draws := s.draws + 1 }
  (acqReset latched, [.header])

/-- DataDone (45_block_checksum.md R250). -/
def dataDone (s : State) : State × List Event :=
  ({ s with phase := .complete }, [.complete (s.hdr_len.setWidth 17)])

/-- The end-of-block test of BlockByte, on the values just written (45_block_checksum.md R241, R247 to R250). -/
def blockEnd (s : State) : State × List Event :=
  if s.bptr = s.blen then
    if s.xsum ≠ 0 then raise .checksumMismatch s
    else if s.phase = .readingHeader then headerDone s
    else dataDone s
  else (s, [])

/-- `BlockByte(i, v)` (45_block_checksum.md R241 to R243, R252). -/
def blockByte (i : BitVec 17) (v : Byte) (s : State) : State × List Event :=
  if i = 0 then
    if v = 0x00#8 then blockEnd { s with phase := .readingHeader, blen := 19 }
    else if v = 0xFF#8 ∧ s.hdr_valid = true then
      blockEnd { s with phase := .readingData, blen := s.hdr_len.setWidth 17 + 2 }
    else raise .unexpectedBlockType s
  else blockEnd s

end Sys2Proof.Machine
end

