-- ==== Sys2Proof/Machine/Errors.lean ====
section
/-! DEFINITION. What raises errors outside the block rules: silence (60_exceptions.md R306) and an unaccepted pulse
(60_exceptions.md R307). The error procedure itself is `raise`, in Machine/Ops.lean. -/

namespace Sys2Proof.Machine

/-- `ProtocolSilence()` (60_exceptions.md R306). -/
def protocolSilence (s : State) : State × List Event :=
  match s.phase with
  | .searchingPilot => ({ s with pilot_cnt := 0, bad_cnt := 0 }, [])
  | .pilotLocked => raise .prematureEnd s
  | .synWait => raise .prematureEnd s
  | .readingHeader => raise (if s.half_pend then .missingPulsePair else .prematureEnd) s
  | .readingData => raise (if s.half_pend then .missingPulsePair else .prematureEnd) s
  | .complete => (s, [])

/-- `Unaccepted()`, for phases 1 to 4 (60_exceptions.md R307). -/
def unaccepted (s : State) : State × List Event :=
  if s.unclass_cnt.toNat < s.cfg.UNCLASS_TOL then ({ s with unclass_cnt := s.unclass_cnt + 1 }, [])
  else raise .unclassifiablePulse s

end Sys2Proof.Machine
end

