-- ==== Sys2Proof/Machine/BitDecoder.lean ====
section
/-! DEFINITION. The pulse-width bit decoder and byte assembler: phases READING_HEADER and READING_DATA
(44_bit_byte_decoder.md R210 to R218). -/

namespace Sys2Proof.Machine

/-- The registers after a byte is in, before the block rule looks at it (44_bit_byte_decoder.md R218). -/
def countByte (v : Byte) (s : State) : State := { s with xsum := s.xsum ^^^ v, bptr := s.bptr + 1 }

/-- `ByteDone(v)` (44_bit_byte_decoder.md R218). -/
def byteDone (v : Byte) (s : State) : Work :=
  match writeEntry s.bptr.toNat v s with
  | .error f => .error f
  | .ok written =>
    let (t, evs) := blockByte s.bptr v (countByte v written)
    .ok (t, .byte s.bptr v :: evs)

/-- `((sh << 1) | b) & 0xFF` (44_bit_byte_decoder.md R216). -/
def shiftIn (sh : BitVec 8) (b : Bool) : BitVec 8 := (sh <<< 1) ||| (BitVec.ofBool b).setWidth 8

/-- `ShiftBit(b)` (44_bit_byte_decoder.md R216). -/
def shiftBit (b : Bool) (s : State) : Work :=
  let v := shiftIn s.sh b
  if s.bitpos = 7 then byteDone v { s with bitpos := 0, sh := 0 }
  else .ok ({ s with bitpos := s.bitpos + 1, sh := v }, [])

/-- An accepted half-pulse of category `k`, `true` for ONE: FirstHalf, SecondHalf or a mismatched pair
(44_bit_byte_decoder.md R211 to R213). -/
def acceptHalf (k : Bool) (s : State) : Work :=
  if !s.half_pend then .ok ({ s with half_pend := true, half_one := k }, [])
  else if s.half_one = k then shiftBit k { s with half_pend := false, half_one := false }
  else .ok (raise .missingPulsePair s)

/-- The category a reading phase accepts, in the test order ZERO, then ONE: `true` for ONE
(42_pulse_classifier.md R166, 44_bit_byte_decoder.md R210). -/
def acceptedBit (C : ClassVector) : Option Bool :=
  if hasCategory C .zero then some false else if hasCategory C .one then some true else none

/-- `ReadBits(C)` (44_bit_byte_decoder.md R210, R214). -/
def readBits (C : ClassVector) (s : State) : Work :=
  match acceptedBit C with
  | none => .ok (unaccepted s)
  | some k => acceptHalf k { s with unclass_cnt := 0 }

end Sys2Proof.Machine
end

