-- ==== Sys2Proof/Machine/PilotSync.lean ====
section
/-! DEFINITION. The pilot and sync frame detector: phases SEARCHING_PILOT, PILOT_LOCKED and SYN_WAIT
(43_pilot_sync.md R181 to R191). -/

namespace Sys2Proof.Machine

/-- SEARCHING_PILOT, PILOT pulse, then the lock test (43_pilot_sync.md R181, R184). -/
def pilotPulse (s : State) : State × List Event :=
  let cnt' := satInc16 s.pilot_cnt
  if lockThreshold s ≤ cnt'.toNat then
    ({ s with pilot_cnt := cnt', phase := .pilotLocked, bad_cnt := 0 }, [.pilotLocked])
  else ({ s with pilot_cnt := cnt' }, [])

/-- SEARCHING_PILOT, a pulse that is not PILOT (43_pilot_sync.md R183). `bad_cnt` is a u8, so its increment wraps
(log 11). -/
def badPulse (s : State) : State :=
  if s.pilot_cnt = 0 then s
  else
    let bad' := s.bad_cnt + 1
    if badBudget s.cfg < bad'.toNat then { s with pilot_cnt := 0, bad_cnt := 0 } else { s with bad_cnt := bad' }

/-- SEARCHING_PILOT (43_pilot_sync.md R181 to R184). -/
def searchPilot (C : ClassVector) (s : State) : State × List Event :=
  if hasCategory C .pilot then pilotPulse s else (badPulse s, [])

/-- PILOT_LOCKED (43_pilot_sync.md R186 to R188). -/
def pilotLocked (C : ClassVector) (s : State) : State × List Event :=
  if hasCategory C .pilot then ({ s with pilot_cnt := satInc16 s.pilot_cnt, unclass_cnt := 0 }, [])
  else if hasCategory C .synOn then ({ s with syn_on := true, phase := .synWait, unclass_cnt := 0 }, [])
  else unaccepted s

/-- SYN_OFF: the block starts, in a phase guessed from `hdr_valid` (43_pilot_sync.md R190). -/
def startBlock (s : State) : State :=
  { s with
    syn_off := true
    unclass_cnt := 0
    phase := if s.hdr_valid then .readingData else .readingHeader
    bptr := 0
    blen := 0
    xsum := 0
    bitpos := 0
    sh := 0
    half_pend := false
    half_one := false }

/-- SYN_WAIT (43_pilot_sync.md R190, R191). -/
def synWait (C : ClassVector) (s : State) : State × List Event :=
  if hasCategory C .synOff then (startBlock s, []) else unaccepted s

end Sys2Proof.Machine
end

