-- ==== Sys2Proof/Machine/Protocol.lean ====
section
/-! DEFINITION. The dispatch of one measured half-pulse on the phase (43_pilot_sync.md R180). -/

namespace Sys2Proof.Machine

/-- `ProtocolPulse(C)` (43_pilot_sync.md R180); COMPLETE ignores every pulse (45_block_checksum.md R260). -/
def protocolPulse (C : ClassVector) (s : State) : Work :=
  match s.phase with
  | .searchingPilot => .ok (searchPilot C s)
  | .pilotLocked => .ok (pilotLocked C s)
  | .synWait => .ok (synWait C s)
  | .readingHeader => readBits C s
  | .readingData => readBits C s
  | .complete => .ok (s, [])

end Sys2Proof.Machine
end

