-- ==== Sys2Proof/Machine/HostOps.lean ====
section
/-! DEFINITION. The meanings of the four host operations (40_host_operations.md R122 to R125). -/

namespace Sys2Proof.Machine

/-- IDLE: nothing changes, and the event ports become invalid (40_host_operations.md R123, R128). The data bits are
ignored. -/
def execIdle (_data : Nat) (s : State) : Host.Outcome State Fault Refusal := finish (.ok (s, []))

/-- `pos <- (pos + 1) mod 2^32`, before anything else of a SAMPLE (40_host_operations.md R122). -/
def advance (s : State) : State := { s with pos := s.pos + 1 }

/-- What SAMPLE does after the edge detector: classify a pulse and run the phase's rule, or run the silence rule
(40_host_operations.md R122, R126). -/
def afterEdgeDetect (r : EdgeResult) : Work :=
  match r.pulse with
  | some n => protocolPulse (classOf r.st.cfg n) r.st
  | none => if r.silence then .ok (protocolSilence r.st) else .ok (r.st, [])

/-- SAMPLE: consume one sample (40_host_operations.md R122). -/
def execSample (v : Int) (s : State) : Host.Outcome State Fault Refusal :=
  finish (afterEdgeDetect (edgeDetect v (advance s)))

/-- RESTART: every register gets its reset value, and the buffer is kept (40_host_operations.md R124;
70_reset_and_hazards.md R331). The data bits are ignored. -/
def execRestart (_data : Nat) (s : State) : Host.Outcome State Fault Refusal := finish (.ok (resetRegisters s, []))

/-- The reserved operation: `ill_op <- 1`, nothing else (40_host_operations.md R125). The data bits are ignored. -/
def execReserved (_data : Nat) (s : State) : Host.Outcome State Fault Refusal :=
  finish (.ok ({ s with ill_op := true }, []))

end Sys2Proof.Machine
end

