-- ==== Sys2Proof/Machine/Dispatch.lean ====
section
/-! DEFINITION. One arm per host operation (40_host_operations.md R121). -/

namespace Sys2Proof.Machine

def exec (i : Instr) (s : State) : Host.Outcome State Fault Refusal :=
  match i with
  | .idle d => Sys2Proof.Machine.execIdle d s
  | .sample v => Sys2Proof.Machine.execSample v s
  | .restart d => Sys2Proof.Machine.execRestart d s
  | .reserved d => Sys2Proof.Machine.execReserved d s

end Sys2Proof.Machine
end

