-- ==== Sys2Proof/Machine/Pins.lean ====
section
/-! DEFINITION. One step's work on the host's input pins: `rst` (70_reset_and_hazards.md R330, R333), or one input
word, decoded and run (40_host_operations.md R120, R121). `step` only takes the pins from the queue and calls this. -/

namespace Sys2Proof.Machine

/-- Run the number `w` presented on the input port as an input word (40_host_operations.md R121). -/
def runWord (w : Nat) (s : State) : Host.Outcome State Fault Refusal :=
  match decode s.cfg.SAMPLE_W w with
  | .ok i => exec i s
  | .error _ => .refused .notAnInputWord

/-- One step on the pins `p`: while `rst` is held the word is ignored (70_reset_and_hazards.md R333). -/
def runPins (p : HostInput) (s : State) : Host.Outcome State Fault Refusal :=
  if p.rst then .next (applyRst s) else runWord p.word s

/-- Put the input word with bits `w` at the head of the pins to come (log 14). -/
def presentWord (s : State) (w : Nat) : State := { s with input := { rst := false, word := w } :: s.input }

end Sys2Proof.Machine
end

