-- ==== Sys2Proof/Machine/Step.lean ====
section
/-! DEFINITION. The step function: one step takes the oldest of the host's input pins (40_host_operations.md R120). -/

namespace Sys2Proof.Machine

/-- One step. An illegal configuration has no core (00_scope.md R13; log 3). With nothing presented no step of the
core happens, and the state stands as it is (20_memory.md R80, 60_exceptions.md R318; log 4). -/
def step (s : State) : Host.Outcome State Fault Refusal :=
  if !legal s.cfg then .refused .illegalConfiguration
  else
    match s.input with
    | [] => .next s
    | p :: rest => runPins p { s with input := rest }

/-- `s` with the instruction whose bits are `w` (those above `nbits` being zero) presented as the next input word
(log 14). -/
def State.withFetchWord (s : State) (nbits w : Nat) : State := presentWord s (w % 2 ^ nbits)

end Sys2Proof.Machine
end

