-- ==== Sys2Proof/Machine/Stimulus.lean ====
section
/-! DEFINITION. Pure functions OUTSIDE the core: the host's conversion of a float sample (30_encoding.md R92) and the
reference line code, from bytes to a sample sequence (48_line_code_stimulus.md R270 to R282). No part of the core
uses them (log 16). -/

namespace Sys2Proof.Machine

open Sys2Proof.Config

/-- The nearest integer to `m / den` for a natural `m`, a half rounding up. -/
def roundHalfUp (m den : Nat) : Nat := (2 * m + den) / (2 * den)

/-- `clamp(round_half_away_from_zero(x · 2^(SAMPLE_W−1)), −2^(SAMPLE_W−1), 2^(SAMPLE_W−1) − 1)` for `x = num / den`
(30_encoding.md R92; log 16). -/
def hostSample (sw : Nat) (num : Int) (den : Nat) : Int :=
  let full := 2 ^ (sw - 1)
  let mag : Int := roundHalfUp (num.natAbs * full) den
  let rounded := if num < 0 then -mag else mag
  max (-(full : Int)) (min rounded ((full : Int) - 1))

/-- The stimulus's own parameters and their defaults (48_line_code_stimulus.md R271, R278, R279). What is required of
`AMP` is asked where samples are made, by `amplitudeError`. -/
structure StimCfg where
  AMP : Nat := 4915
  PILOT_COUNT_HDR : Nat := 8063
  PILOT_COUNT_DATA : Nat := 3223
  PAD_T : Nat := 1710
  GAP_T : Nat := 0
  deriving DecidableEq, Repr

/-- One call of a writer, its duration in T-states (48_line_code_stimulus.md R270). -/
inductive WaveOp where
  | pulse (d : Nat)
  | gap (d : Nat)
  deriving DecidableEq, Repr

/-- The writer's state: the time cursor `τ` in T-states and the level `L`, `neg` for −1 (48_line_code_stimulus.md
R272, R273). -/
structure Writer where
  tau : Nat := 0
  neg : Bool := false
  deriving DecidableEq, Repr

/-- `L · a` (48_line_code_stimulus.md R273). -/
def levelSample (neg : Bool) (a : Nat) : Int := if neg then -(a : Int) else (a : Int)

/-- The samples a writer of `d` T-states emits at `τ`: `offset(τ + d) − offset(τ)` (48_line_code_stimulus.md R272). -/
def runLength (c : Cfg) (tau d : Nat) : Nat := toSamples c (tau + d) - toSamples c tau

/-- The samples of one writer call (48_line_code_stimulus.md R273, R275). -/
def waveSamples (c : Cfg) (p : StimCfg) (w : Writer) : WaveOp → List Int
  | .pulse d => List.replicate (runLength c w.tau d) (levelSample w.neg p.AMP)
  | .gap d => List.replicate (runLength c w.tau d) 0

/-- The writer after one call: `τ` advances, and a pulse flips the level (48_line_code_stimulus.md R273, R275). -/
def waveNext (w : Writer) : WaveOp → Writer
  | .pulse d => { tau := w.tau + d, neg := !w.neg }
  | .gap d => { tau := w.tau + d, neg := w.neg }

/-- Why the encoder produces no samples. -/
inductive StimError where
  /-- The payload is longer than 0xFFFF bytes (48_line_code_stimulus.md R282). -/
  | dataTooLarge
  /-- `AMP < NOISE_T`, where `AMP ≥ NOISE_T` is required (48_line_code_stimulus.md R271; log 19). -/
  | amplitudeGated
  /-- `+AMP` is no signed `SAMPLE_W`-bit sample (48_line_code_stimulus.md R270; log 19). -/
  | amplitudeTooWide
  deriving DecidableEq, Repr

/-- What is wrong with the amplitude, if anything: `AMP ≥ NOISE_T` is required (48_line_code_stimulus.md R271), and the
samples are signed `SAMPLE_W`-bit ones (R270). DESIGN CHOICE (log 19): where either fails there is no stimulus. -/
def amplitudeError (c : Cfg) (p : StimCfg) : Option StimError :=
  if p.AMP < c.NOISE_T then some .amplitudeGated
  else if sampleFits c.SAMPLE_W p.AMP then none
  else some .amplitudeTooWide

/-- What a sequence of writer calls emits, from the writer `w` on. -/
def writeAll (c : Cfg) (p : StimCfg) : Writer → List WaveOp → List Int
  | _, [] => []
  | w, op :: ops => waveSamples c p w op ++ writeAll c p (waveNext w op) ops

/-- The samples of a stimulus: its writer calls from `τ = 0` and `L = +1` on, for an amplitude that is allowed
(48_line_code_stimulus.md R270 to R273). -/
def render (c : Cfg) (p : StimCfg) (ops : List WaveOp) : Except StimError (List Int) :=
  match amplitudeError c p with
  | some e => .error e
  | none => .ok (writeAll c p {} ops)

/-- `encodeBit(b)` (48_line_code_stimulus.md R276). -/
def encodeBit (c : Cfg) (b : Bool) : List WaveOp :=
  let d := if b then c.T_ONE else c.T_ZERO
  [.pulse d, .pulse d]

/-- The bits of a byte in sending order: `((v << i) & 0x80) ≠ 0` for `i` from 0 to 7 (48_line_code_stimulus.md
R277). -/
def byteBits (v : Byte) : List Bool := (List.range 8).map (fun i => decide ((v <<< i) &&& 0x80#8 ≠ 0#8))

/-- `encodeByte(v)` (48_line_code_stimulus.md R277). -/
def encodeByte (c : Cfg) (v : Byte) : List WaveOp := (byteBits v).flatMap (encodeBit c)

/-- The XOR of a byte list (48_line_code_stimulus.md R278). -/
def xorBytes (bs : List Byte) : Byte := bs.foldl (· ^^^ ·) 0#8

/-- A block's bytes: type, payload, checksum (48_line_code_stimulus.md R278). -/
def blockBytes (t : Byte) (payload : List Byte) : List Byte := t :: payload ++ [xorBytes (t :: payload)]

/-- `encodeBlock(T, P, k)`, the writer calls it makes (48_line_code_stimulus.md R278). -/
def encodeBlock (c : Cfg) (p : StimCfg) (t : Byte) (payload : List Byte) (k : Nat) : Except StimError (List WaveOp) :=
  if 0xFFFF < payload.length then .error .dataTooLarge
  else .ok (List.replicate k (.pulse c.T_PILOT) ++ [.pulse c.T_SYN_ON, .pulse c.T_SYN_OFF]
    ++ (blockBytes t payload).flatMap (encodeByte c) ++ [.pulse p.PAD_T])

/-- A name truncated to 10 bytes and right-padded with 0x20 to exactly 10 (48_line_code_stimulus.md R280). -/
def padName (name : List Byte) : List Byte := (name ++ List.replicate 10 0x20#8).take 10

/-- `headerPayload(f, name, N, p1, p2)`: 17 bytes (48_line_code_stimulus.md R280). -/
def headerPayload (f : Byte) (name : List Byte) (n : Nat) (p1 p2 : BitVec 16) : List Byte :=
  f :: padName name ++ [BitVec.ofNat 8 n, BitVec.ofNat 8 (n >>> 8), p1.setWidth 8, (p1 >>> 8).setWidth 8,
    p2.setWidth 8, (p2 >>> 8).setWidth 8]

/-- The writer calls `encodeFile(f, name, P, p1, p2)` makes (48_line_code_stimulus.md R279). -/
def fileOps (c : Cfg) (p : StimCfg) (f : Byte) (name payload : List Byte) (p1 p2 : BitVec 16) :
    Except StimError (List WaveOp) :=
  match encodeBlock c p 0x00#8 (headerPayload f name payload.length p1 p2) p.PILOT_COUNT_HDR,
      encodeBlock c p 0xFF#8 payload p.PILOT_COUNT_DATA with
  | .ok h, .ok d => .ok (h ++ (if 0 < p.GAP_T then [.gap p.GAP_T] else []) ++ d)
  | .error e, _ => .error e
  | _, .error e => .error e

/-- `encodeFile(f, name, P, p1, p2)`: the samples (48_line_code_stimulus.md R279), or why there are none (R271, R282;
log 19). -/
def encodeFile (c : Cfg) (p : StimCfg) (f : Byte) (name payload : List Byte) (p1 p2 : BitVec 16) :
    Except StimError (List Int) :=
  match fileOps c p f name payload p1 p2 with
  | .ok ops => render c p ops
  | .error e => .error e

/-- The input word of a sample that fits `sw` bits (30_encoding.md R111). Every caller has asked for the fit, the
stimulus in `amplitudeError` (log 19) and the assembly in `asmRun`; of another value it would be the word of its low
`sw` bits. -/
def sampleWord (sw : Nat) (v : Int) : Nat := (encode sw (.sample v)).toNat

/-- The input words of a file's stimulus, one SAMPLE word a sample (48_line_code_stimulus.md R279, R284). -/
def fileWords (c : Cfg) (p : StimCfg) (f : Byte) (name payload : List Byte) (p1 p2 : BitVec 16) :
    Except StimError (List Nat) :=
  match encodeFile c p f name payload p1 p2 with
  | .ok vs => .ok (vs.map (sampleWord c.SAMPLE_W))
  | .error e => .error e

end Sys2Proof.Machine
end

