-- ==== Sys2Proof/Machine/Assembly.lean ====
section
/-! DEFINITION. The stimulus assembly language, from statements to input words (30_encoding.md R110 to R117), a pure
function OUTSIDE the core. Statements are data; the spelling of lines, comments and numbers is left out (log 16). -/

namespace Sys2Proof.Machine

/-- The statements (30_encoding.md R111 to R116). -/
inductive Stmt where
  | idle
  | sample (v : Int)
  | restart
  | word (x : Nat)
  | run (n : Nat) (v : Int)
  | silence (n : Nat)
  | level (neg : Bool)
  | pulse (n : Nat)
  | tbit (b : Bool)
  | tbyte (v : Byte)
  | pilot (k : Nat)
  | sync
  | block (k : Nat) (t : Byte) (bs : List Byte)
  | blockx (k : Nat) (t c : Byte) (bs : List Byte)
  | headerblock (k : Nat) (f : Byte) (name : List Char) (len : Nat) (p1 p2 : BitVec 16)
  deriving DecidableEq, Repr

/-- The assembler's state: the level `L` and the amplitude `A` (30_encoding.md R110). -/
structure AsmState where
  neg : Bool := false
  amp : Nat := 4915
  deriving DecidableEq, Repr

/-- Why a program does not assemble. -/
inductive AsmError where
  /-- A sample outside `−2^(SAMPLE_W−1) ≤ v < 2^(SAMPLE_W−1)` (30_encoding.md R111). -/
  | sampleOutOfRange
  deriving DecidableEq, Repr

/-- What an assembly gives: the words and the assembler's state after them. -/
abbrev Assembled := Except AsmError (List Nat × AsmState)

/-- `RUN n, v`: `n` copies of `SAMPLE v` (30_encoding.md R111, R112). -/
def asmRun (sw n : Nat) (v : Int) (st : AsmState) : Assembled :=
  if n = 0 then .ok ([], st)
  else if sampleFits sw v then .ok (List.replicate n (sampleWord sw v), st)
  else .error .sampleOutOfRange

/-- `PULSE n`: `RUN n, L·A`, then `L <- −L` (30_encoding.md R113). -/
def asmPulse (sw n : Nat) (st : AsmState) : Assembled :=
  asmRun sw n (levelSample st.neg st.amp) { st with neg := !st.neg }

/-- A sequence of PULSE statements. -/
def asmPulses (sw : Nat) : List Nat → AsmState → Assembled
  | [], st => .ok ([], st)
  | n :: ns, st =>
    match asmPulse sw n st with
    | .error e => .error e
    | .ok (ws, st') =>
      match asmPulses sw ns st' with
      | .error e => .error e
      | .ok (vs, st'') => .ok (ws ++ vs, st'')

/-- `TBIT b` as pulse lengths (30_encoding.md R114). -/
def bitPulses (b : Bool) : List Nat := if b then [22, 22] else [11, 11]

/-- `TBYTE v`: `v[7]` first, `v[0]` last (30_encoding.md R114). -/
def bytePulses (v : Byte) : List Nat := (byteBits v).flatMap bitPulses

/-- `PILOT k` (30_encoding.md R115). -/
def pilotPulses (k : Nat) : List Nat := List.replicate k 27

/-- `SYNC` (30_encoding.md R115). -/
def syncPulses : List Nat := [8, 9]

/-- `BLOCKX k, t, c, b1, …, bn`, with its closing pad (30_encoding.md R116). -/
def blockPulses (k : Nat) (t c : Byte) (bs : List Byte) : List Nat :=
  pilotPulses k ++ syncPulses ++ (t :: bs ++ [c]).flatMap bytePulses ++ [22]

/-- The payload of a HEADERBLOCK (30_encoding.md R116). -/
def headerBlockBytes (f : Byte) (name : List Char) (len : Nat) (p1 p2 : BitVec 16) : List Byte :=
  headerPayload f (name.map (fun ch => BitVec.ofNat 8 ch.toNat)) len p1 p2

/-- One statement (30_encoding.md R111 to R116). -/
def asmStmt (sw : Nat) (st : AsmState) : Stmt → Assembled
  | .idle => .ok ([(encode sw (.idle 0)).toNat], st)
  | .sample v => asmRun sw 1 v st
  | .restart => .ok ([(encode sw (.restart 0)).toNat], st)
  | .word x => .ok ([x], st)
  | .run n v => asmRun sw n v st
  | .silence n => asmRun sw n 0 st
  | .level neg => .ok ([], { st with neg := neg })
  | .pulse n => asmPulse sw n st
  | .tbit b => asmPulses sw (bitPulses b) st
  | .tbyte v => asmPulses sw (bytePulses v) st
  | .pilot k => asmPulses sw (pilotPulses k) st
  | .sync => asmPulses sw syncPulses st
  | .block k t bs => asmPulses sw (blockPulses k t (xorBytes (t :: bs)) bs) st
  | .blockx k t c bs => asmPulses sw (blockPulses k t c bs) st
  | .headerblock k f name len p1 p2 =>
    let bs := headerBlockBytes f name len p1 p2
    asmPulses sw (blockPulses k 0x00#8 (xorBytes (0x00#8 :: bs)) bs) st

/-- A program: its statements in order (30_encoding.md R110, R117). -/
def assemble (sw : Nat) : AsmState → List Stmt → Assembled
  | st, [] => .ok ([], st)
  | st, p :: ps =>
    match asmStmt sw st p with
    | .error e => .error e
    | .ok (ws, st') =>
      match assemble sw st' ps with
      | .error e => .error e
      | .ok (vs, st'') => .ok (ws ++ vs, st'')

end Sys2Proof.Machine
end

