-- ==== Sys2Proof/Machine/Ports.lean ====
section
/-! DEFINITION. What the host reads between steps: the status port (10_state.md R60), the buffer port (20_memory.md
R73) and the event ports (30_encoding.md R97). Every port is a function of the state and has no side effect
(20_memory.md R82). -/

namespace Sys2Proof.Machine

open Sys2Proof.Config

/-- STATUS, address 0x0 (10_state.md R60). -/
def statusWord (s : State) : StatusWord :=
  0#13 ++ BitVec.ofBool (incomplete s) ++ s.last_err ++ BitVec.ofBool s.err_seen ++ s.bitpos
    ++ BitVec.ofBool s.ill_op ++ BitVec.ofBool s.prev_neg ++ BitVec.ofBool s.have_prev
    ++ BitVec.ofBool s.half_one ++ BitVec.ofBool s.half_pend ++ BitVec.ofBool s.syn_off
    ++ BitVec.ofBool s.syn_on ++ BitVec.ofBool s.hdr_valid ++ phaseCode s.phase

/-- `cnt` on the status port: `[CNT_W−1:0]`, the bits above being 0 (10_state.md R60; log 9). -/
def cntWord (s : State) : StatusWord := BitVec.ofNat 32 (s.cnt % 2 ^ s.cfg.CNT_W)

/-- Four filename bytes, the lower-numbered in the lower bits (10_state.md R60, 20_memory.md R79). -/
def nameWord (a b c d : Byte) : StatusWord := d ++ c ++ b ++ a

/-- `st_data` at `st_addr` (10_state.md R60). -/
def statusPort (s : State) (addr : BitVec 4) : StatusWord :=
  match addr.toNat with
  | 0x0 => statusWord s
  | 0x1 => s.pos
  | 0x2 => cntWord s
  | 0x3 => s.unclass_cnt ++ s.bad_cnt ++ s.pilot_cnt
  | 0x4 => 0#16 ++ s.xsum ++ s.sh
  | 0x5 => s.bptr.setWidth 32
  | 0x6 => s.blen.setWidth 32
  | 0x7 => s.err_cnt.setWidth 32
  | 0x8 => 0#8 ++ s.hdr_len ++ s.hdr_type
  | 0x9 => s.hdr_p2 ++ s.hdr_p1
  | 0xA => nameWord s.hdr_name[0] s.hdr_name[1] s.hdr_name[2] s.hdr_name[3]
  | 0xB => nameWord s.hdr_name[4] s.hdr_name[5] s.hdr_name[6] s.hdr_name[7]
  | 0xC => nameWord s.hdr_name[8] s.hdr_name[9] 0 0
  | _ => 0

/-- `buf_rdata` at `buf_raddr`, as read number `draw` of the host: an entry no step has written since `rst` gives a
free byte, not fixed between reads (20_memory.md R73, R74; log 6). -/
def bufferPort (draw : Nat) (s : State) (addr : BitVec 17) : Byte :=
  if addr.toNat < bufDepth then readEntry draw s addr.toNat else 0x00#8

/-- The event words on the ports, slot 0 before slot 1 (30_encoding.md R97). -/
def eventsOnPorts (s : State) : List EventWord :=
  (if s.ev0_valid then [s.ev0_word] else []) ++ (if s.ev1_valid then [s.ev1_word] else [])

end Sys2Proof.Machine
end

