-- ==== Sys2Proof/Safety.lean ====
section
/-! DEFINITION. The vocabulary claims are stated in: the invariants of every reachable state (10_state.md R54 and what
makes them inductive), reachability, runs and their events, and the conditions of a sample written in the spec's own
terms (41_edge_detector.md R141 to R145), apart from the functions the meanings call. -/

namespace Sys2Proof.Machine

open Sys2Proof.Config

/-- READING_HEADER or READING_DATA: phase ∈ {3, 4}. -/
abbrev reading (s : State) : Prop := s.phase = .readingHeader ∨ s.phase = .readingData

/-- 10_state.md R54, clause by clause. -/
structure StateRules (s : State) : Prop where
  /-- (a) -/
  phaseLegal : (phaseCode s.phase).toNat ≤ 5
  /-- (b) -/
  bitsIdle : ¬ reading s → s.half_pend = false ∧ s.half_one = false ∧ s.bitpos = 0 ∧ s.sh = 0
  /-- (c) -/
  blockIdle : s.phase = .searchingPilot ∨ s.phase = .pilotLocked ∨ s.phase = .synWait →
    s.bptr = 0 ∧ s.blen = 0 ∧ s.xsum = 0
  /-- (d) -/
  blockLength : (s.blen = 0 ∨ s.blen = 19 ∨ s.blen.toNat = s.hdr_len.toNat + 2) ∧
    (s.blen ≠ 0 → reading s → s.bptr.toNat < s.blen.toNat)
  /-- (e) -/
  blockUntyped : s.blen = 0 → reading s → s.bptr = 0
  /-- (f) -/
  completeHolds : s.phase = .complete →
    s.hdr_valid = true ∧ s.bptr = s.blen ∧ s.blen.toNat = s.hdr_len.toNat + 2
  /-- (g) -/
  syncFlags : (s.syn_on = true ↔ s.phase = .synWait ∨ reading s ∨ s.phase = .complete) ∧
    (s.syn_off = true ↔ reading s ∨ s.phase = .complete)
  /-- (h) -/
  armedCount : s.have_prev = true → 1 ≤ s.cnt
  /-- (i) -/
  searching : s.phase = .searchingPilot →
    s.pilot_cnt.toNat < lockThreshold s ∧ s.bad_cnt.toNat ≤ badBudget s.cfg
  /-- (j) -/
  unaccepted : s.unclass_cnt.toNat ≤ s.cfg.UNCLASS_TOL

/-- The XOR of the buffer entries below `n`, an entry without a value counting as 0. -/
def bufferXor (m : Memory) (n : Nat) : Byte := (List.range n).foldl (fun x i => x ^^^ (m.read? i).getD 0) 0

/-- The inductive invariant: R54 and the facts that carry it from step to step. -/
structure Inv (s : State) : Prop where
  rules : StateRules s
  /-- 00_scope.md R13. -/
  legalCfg : legal s.cfg = true
  /-- `cnt` fits its `CNT_W` bits (41_edge_detector.md R146). -/
  cntFits : s.cnt ≤ cntMax s.cfg
  /-- An armed detector has counted at most `SILENCE_CYCLE` (41_edge_detector.md R146, R147). -/
  armedBelowSilence : s.have_prev = true → s.cnt ≤ s.cfg.SILENCE_CYCLE
  /-- `half_one` is 0 while no half is pending (10_state.md R45). -/
  halfIdle : s.half_pend = false → s.half_one = false
  /-- `sh` holds `bitpos` bits (44_bit_byte_decoder.md R216). -/
  shiftFits : s.sh.toNat < 2 ^ s.bitpos.toNat
  /-- A header block's length (45_block_checksum.md R242). -/
  headerFrame : s.phase = .readingHeader → s.blen = 0 ∨ s.blen = 19
  /-- A data block's length, which needs a held header (45_block_checksum.md R243). -/
  dataFrame : s.phase = .readingData → s.hdr_valid = true ∧ (s.blen = 0 ∨ s.blen.toNat = s.hdr_len.toNat + 2)
  /-- The buffer keeps its canonical form. -/
  bufferWf : s.buf.wf
  /-- Every byte received of the current block is in the buffer (20_memory.md R70, R71). -/
  written : ∀ i < s.bptr.toNat, (s.buf.read? i).isSome = true
  /-- `xsum` is the XOR of those bytes (10_state.md R49, 45_block_checksum.md R246). -/
  checksum : s.xsum = bufferXor s.buf s.bptr.toNat
  /-- The error log (10_state.md R51, 60_exceptions.md R300). -/
  errorLog : s.last_err.toNat ≤ 4 ∧ (s.err_seen = false ↔ s.err_cnt = 0)
  /-- The event ports (30_encoding.md R97). -/
  ports : (s.ev1_valid = true → s.ev0_valid = true) ∧ (s.ev0_valid = false → s.ev0_word = 0) ∧
    (s.ev1_valid = false → s.ev1_word = 0)

/-- An unarmed detector has no pilot run and no block under way (41_edge_detector.md R147, 60_exceptions.md R306). -/
def UnarmedIdle (s : State) : Prop :=
  s.have_prev = false → s.phase = .complete ∨ (s.phase = .searchingPilot ∧ s.pilot_cnt = 0 ∧ s.bad_cnt = 0)

/-- The states a host can bring the core to: reset at a legal configuration, pins presented, steps taken. -/
inductive Reachable : State → Prop where
  | reset (c : Cfg) (h : legal c = true) : Reachable (State.resetWith c)
  | present (s : State) (p : HostInput) (h : Reachable s) : Reachable { s with input := s.input ++ [p] }
  | step (s t : State) (h : Reachable s) (hst : step s = .next t) : Reachable t

/-- Every waiting word is one the port can carry (30_encoding.md R90). -/
def inputFits (s : State) : Prop := ∀ p ∈ s.input, p.rst = false → p.word < 2 ^ (s.cfg.SAMPLE_W + 2)

/-- Step on each of the pins in turn, and gather the events of every step in order (60_exceptions.md R310). -/
def feed : List HostInput → State → Host.Outcome (State × List EventWord) Fault Refusal
  | [], s => .next (s, [])
  | p :: ps, s =>
    match step { s with input := [p] } with
    | .next t =>
      match feed ps t with
      | .next (u, evs) => .next (u, eventsOnPorts t ++ evs)
      | .fault f => .fault f
      | .refused r => .refused r
    | .fault f => .fault f
    | .refused r => .refused r

/-- A sequence of input words as pins. -/
def wordPins (ws : List Nat) : List HostInput := ws.map (fun w => { rst := false, word := w })

/-- Two states agree on every register; the buffer and the model's own fields may differ. -/
def sameRegisters (s t : State) : Prop :=
  { s with buf := t.buf, draws := t.draws, input := t.input } = t

/-- The event ports as a step with no event leaves them (30_encoding.md R97). -/
def noEvents (s : State) : State :=
  { s with ev0_valid := false, ev0_word := 0, ev1_valid := false, ev1_word := 0 }

/-- The event ports after a step with the one event word `w`. -/
def oneEvent (w : EventWord) (s : State) : State :=
  { s with ev0_valid := true, ev0_word := w, ev1_valid := false, ev1_word := 0 }

/-- The event ports after a step with the event words `w` and `w'`. -/
def twoEvents (w w' : EventWord) (s : State) : State :=
  { s with ev0_valid := true, ev0_word := w, ev1_valid := true, ev1_word := w' }

/-- The words of 30_encoding.md R98, as numbers: kind, `code · 2^3`, `value · 2^8`, `index · 2^16`. -/
def wordPilotLocked : EventWord := 1
def wordHeader : EventWord := 2
def wordByte (index : Nat) (value : Byte) : EventWord := BitVec.ofNat 64 (3 + value.toNat * 2 ^ 8 + index * 2 ^ 16)
def wordError (code : Nat) : EventWord := BitVec.ofNat 64 (4 + code * 2 ^ 3)
def wordComplete (len : Nat) : EventWord := BitVec.ofNat 64 (5 + len * 2 ^ 16)

/-- What acquisition reset leaves (60_exceptions.md R305), register by register. -/
def acquisitionCleared (s : State) : State :=
  { s with
    phase := .searchingPilot, pilot_cnt := 0, bad_cnt := 0, unclass_cnt := 0, syn_on := false, syn_off := false
    half_pend := false, half_one := false, bitpos := 0, sh := 0, bptr := 0, blen := 0, xsum := 0 }

/-- What the error procedure leaves but for the ports: the log of error `code`, and acquisition reset
(60_exceptions.md R303). -/
def errorTaken (code : Nat) (s : State) : State :=
  { acquisitionCleared s with
    err_seen := true
    last_err := BitVec.ofNat 3 code
    err_cnt := BitVec.ofNat 16 (min (s.err_cnt.toNat + 1) 65535) }

/-- A sample that is neither a seed nor an edge: gated, or of the sign of the last one (41_edge_detector.md R141,
R145). -/
def NoEdge (v : Int) (s : State) : Prop :=
  v.natAbs < s.cfg.NOISE_T ∨ (s.have_prev = true ∧ s.prev_neg = decide (v < 0))

/-- A seed (41_edge_detector.md R142). -/
def Seeds (v : Int) (s : State) : Prop := s.cfg.NOISE_T ≤ v.natAbs ∧ s.have_prev = false

/-- An edge (41_edge_detector.md R143). -/
def EdgeAt (v : Int) (s : State) : Prop :=
  s.cfg.NOISE_T ≤ v.natAbs ∧ s.have_prev = true ∧ s.prev_neg ≠ decide (v < 0)

/-- The count after one more sample (41_edge_detector.md R146). -/
def countNext (s : State) : Nat := min (s.cnt + 1) (2 ^ s.cfg.CNT_W - 1)

/-- The registers of the edge detector and `pos` after an edge sample (41_edge_detector.md R144,
40_host_operations.md R122); the measured length was `s.cnt`. -/
def edgeTaken (v : Int) (s : State) : State := { s with pos := s.pos + 1, prev_neg := decide (v < 0), cnt := 1 }

/-- A sample that declares silence: with no edge, `cnt` becomes `SILENCE_CYCLE + 1`, and by increment
(41_edge_detector.md R147). -/
def DeclaresSilence (v : Int) (s : State) : Prop :=
  NoEdge v s ∧ s.cnt = s.cfg.SILENCE_CYCLE ∧ countNext s = s.cfg.SILENCE_CYCLE + 1

/-- The registers of the edge detector and `pos` after a sample that declares silence (41_edge_detector.md R147). -/
def silenceTaken (s : State) : State :=
  { s with pos := s.pos + 1, have_prev := false, cnt := s.cfg.SILENCE_CYCLE + 1 }

/-- The measured length of an edge sample lies in the window of category `k` (42_pulse_classifier.md R162). -/
def Measures (k : Category) (s : State) : Prop :=
  expectedCount s.cfg k ≤ s.cnt + tolerance s.cfg k ∧ s.cnt ≤ expectedCount s.cfg k + tolerance s.cfg k

/-- The bit a reading phase takes from the measured length: ZERO is tested before ONE (42_pulse_classifier.md R166). -/
def TakesBit (b : Bool) (s : State) : Prop :=
  (Measures .zero s ∧ b = false) ∨ (¬ Measures .zero s ∧ Measures .one s ∧ b = true)

/-- The sample's step completes the byte `b`: a matching second half-pulse gives the eighth bit
(44_bit_byte_decoder.md R212, R216). -/
def CompletesByte (v : Int) (s : State) (b : Byte) : Prop :=
  EdgeAt v s ∧ reading s ∧ s.half_pend = true ∧ TakesBit s.half_one s ∧ s.bitpos = 7 ∧
    b = BitVec.ofNat 8 (2 * s.sh.toNat + s.half_one.toNat)

/-- The registers and the buffer after ByteDone's own work, before the block rules (44_bit_byte_decoder.md R212, R216,
R218). -/
def byteTaken (v : Int) (b : Byte) (s : State) : State :=
  { edgeTaken v s with
    unclass_cnt := 0, half_pend := false, half_one := false, bitpos := 0, sh := 0
    buf := s.buf.write s.bptr.toNat b
    xsum := s.xsum ^^^ b
    bptr := s.bptr + 1 }

/-- A pulse of the measured length is unaccepted in the current phase, one of phases 1 to 4 (42_pulse_classifier.md
R166, R167). -/
def Unaccepts (s : State) : Prop :=
  (s.phase = .pilotLocked ∧ ¬ Measures .pilot s ∧ ¬ Measures .synOn s) ∨
  (s.phase = .synWait ∧ ¬ Measures .synOff s) ∨
  (reading s ∧ ¬ Measures .zero s ∧ ¬ Measures .one s)

/-- The condition of each error code, on the state before the sample (60_exceptions.md R300). -/
def RaisesOn (v : Int) (s : State) : Nat → Prop
  | 0 => ∃ b, CompletesByte v s b ∧ s.bptr ≠ 0 ∧ s.bptr + 1 = s.blen ∧ s.xsum ^^^ b ≠ 0
  | 1 => (EdgeAt v s ∧ reading s ∧ s.half_pend = true ∧ TakesBit (!s.half_one) s) ∨
      (DeclaresSilence v s ∧ reading s ∧ s.half_pend = true)
  | 2 => EdgeAt v s ∧ Unaccepts s ∧ s.cfg.UNCLASS_TOL ≤ s.unclass_cnt.toNat
  | 3 => DeclaresSilence v s ∧
      (s.phase = .pilotLocked ∨ s.phase = .synWait ∨ (reading s ∧ s.half_pend = false))
  | 4 => ∃ b, CompletesByte v s b ∧ s.bptr = 0 ∧ b ≠ 0x00#8 ∧ ¬ (b = 0xFF#8 ∧ s.hdr_valid = true)
  | _ => False

/-- The lengths of the half-pulses the edge detector emits over a sequence of samples (41_edge_detector.md R150). -/
def pulsesOf : List Int → State → List Nat
  | [], _ => []
  | v :: vs, s => (edgeDetect v s).pulse.toList ++ pulsesOf vs (edgeDetect v s).st

/-- Runs of non-gated samples whose signs alternate, the first being negative iff `neg`, each run of 1 to `top`
samples. -/
def SquareRuns (noise top : Nat) : Bool → List (List Int) → Prop
  | _, [] => True
  | neg, r :: rs => (1 ≤ r.length ∧ r.length ≤ top ∧ ∀ v ∈ r, noise ≤ v.natAbs ∧ decide (v < 0) = neg) ∧
    SquareRuns noise top (!neg) rs

/-- Completed bytes given to the block assembler in turn, and their events (44_bit_byte_decoder.md R218). -/
def feedBytes : List Byte → State → Work
  | [], s => .ok (s, [])
  | v :: vs, s =>
    match byteDone v s with
    | .error f => .error f
    | .ok (t, evs) =>
      match feedBytes vs t with
      | .error f => .error f
      | .ok (u, more) => .ok (u, evs ++ more)

/-- Bits given to the byte assembler in turn, and their events (44_bit_byte_decoder.md R216). -/
def feedBits : List Bool → State → Work
  | [], s => .ok (s, [])
  | b :: bs, s =>
    match shiftBit b s with
    | .error f => .error f
    | .ok (t, evs) =>
      match feedBits bs t with
      | .error f => .error f
      | .ok (u, more) => .ok (u, evs ++ more)

/-- The BYTE events of a list of bytes from buffer index `i` on. -/
def byteEvents : Nat → List Byte → List Event
  | _, [] => []
  | i, v :: vs => .byte (BitVec.ofNat 17 i) v :: byteEvents (i + 1) vs

end Sys2Proof.Machine
end

