-- ==== Sys2Proof/Certificates/Slice0/Obligations.lean ====
section
/-! DEFINITION. The statements for the provers. Each docstring names the rules of the spec a statement formalises, and
the log entry where it rests on a choice of the model. -/

section

open Sys2Proof Sys2Proof.Config Sys2Proof.Machine

/-! ### Encoding -/

/-- Decoding an encoded well-formed instruction gives it back, at every sample width and every operand
(30_encoding.md R90 to R92, R111). -/
def Obligations.EncodedInstructionDecodesBack : Prop :=
  ∀ (sw : Nat) (i : Instr), i.wellFormed sw = true →
    decodeWord sw (encode sw i) = i ∧ decode sw (encode sw i).toNat = .ok i

/-- Every word is the encoding of the one well-formed instruction it decodes to (30_encoding.md R90 to R92; log 18). -/
def Obligations.WordIsEncodingOfItsInstruction : Prop :=
  ∀ (sw : Nat) (w : InputWord sw), (decodeWord sw w).wellFormed sw = true ∧ encode sw (decodeWord sw w) = w

/-- 30_encoding.md R101, with the rows of R91 and the two's-complement sample of R92 in plain arithmetic on the number
`n` of a word. That the decoded IDLE, RESTART and reserved operations keep the ignored data bits is THE MODEL'S CHOICE
(log 18). -/
def Obligations.EveryWordDecodesByItsOp : Prop :=
  ∀ sw n : Nat, n < 2 ^ (sw + 2) →
    n / 2 ^ sw < 4 ∧
    (n / 2 ^ sw = 0 → decode sw n = .ok (.idle (n % 2 ^ sw))) ∧
    (n / 2 ^ sw = 1 → decode sw n =
      .ok (.sample (((n % 2 ^ sw : Nat) : Int) - if 2 * (n % 2 ^ sw) < 2 ^ sw then 0 else (2 ^ sw : Int)))) ∧
    (n / 2 ^ sw = 2 → decode sw n = .ok (.restart (n % 2 ^ sw))) ∧
    (n / 2 ^ sw = 3 → decode sw n = .ok (.reserved (n % 2 ^ sw)))

/-- The example words of 30_encoding.md R111 and 40_host_operations.md R122 to R125, at the default width. -/
def Obligations.SpecExampleWordsDecode : Prop :=
  decodeTableWord 18 0x00000 = some (.idle 0) ∧
  decodeTableWord 18 0x11333 = some (.sample 4915) ∧
  decodeTableWord 18 0x1ECCD = some (.sample (-4915)) ∧
  decodeTableWord 18 0x10000 = some (.sample 0) ∧
  decodeTableWord 18 0x18000 = some (.sample (-32768)) ∧
  decodeTableWord 18 0x17FFF = some (.sample 32767) ∧
  decodeTableWord 18 0x20000 = some (.restart 0) ∧
  decodeTableWord 18 0x30000 = some (.reserved 0)

/-- 30_encoding.md R98 and R99: every field of the word of every event. -/
def Obligations.EventWordFields : Prop :=
  ∀ e : Event,
    (eventWord e).extractLsb' 6 2 = 0 ∧ (eventWord e).extractLsb' 33 31 = 0 ∧
    (eventWord e).extractLsb' 0 3 =
      (match e with | .pilotLocked => 1 | .header => 2 | .byte _ _ => 3 | .error _ => 4 | .complete _ => 5) ∧
    (eventWord e).extractLsb' 3 3 =
      (match e with
       | .error .checksumMismatch => 0 | .error .missingPulsePair => 1 | .error .unclassifiablePulse => 2
       | .error .prematureEnd => 3 | .error .unexpectedBlockType => 4
       | .pilotLocked => 0 | .header => 0 | .byte _ _ => 0 | .complete _ => 0) ∧
    (eventWord e).extractLsb' 8 8 =
      (match e with | .byte _ v => v | .pilotLocked => 0 | .header => 0 | .error _ => 0 | .complete _ => 0) ∧
    (eventWord e).extractLsb' 16 17 =
      (match e with | .byte i _ => i | .complete n => n | .pilotLocked => 0 | .header => 0 | .error _ => 0)

/-! ### Steps -/

/-- A step runs the decoded word: the pins are taken from the head of the queue and the instruction is run, nothing
more (40_host_operations.md R120, R121; log 4, log 14). -/
def Obligations.StepRunsTheDecodedWord : Prop :=
  (∀ (s : State) (w : Nat) (rest : List HostInput) (i : Instr), legal s.cfg = true →
    s.input = { rst := false, word := w } :: rest → decode s.cfg.SAMPLE_W w = .ok i →
    step s = exec i { s with input := rest }) ∧
  (∀ (s : State) (nbits w : Nat) (i : Instr), legal s.cfg = true →
    decode s.cfg.SAMPLE_W (w % 2 ^ nbits) = .ok i → step (s.withFetchWord nbits w) = exec i s)

/-- 70_reset_and_hazards.md R330 and R333, 40_host_operations.md R129: while `rst` is held the word is ignored, and every
register takes the reset value of 10_state.md R62. THE MODEL'S CHOICES: an entry of unspecified value is one that is not
listed, and the numbering of free draws is kept (log 6); the later pins stay in their queue (log 4). -/
def Obligations.RstStepResets : Prop :=
  ∀ (s : State) (w : Nat) (rest : List HostInput), legal s.cfg = true →
    s.input = { rst := true, word := w } :: rest →
    step s = .next
      { cfg := s.cfg, pos := 0, have_prev := false, prev_neg := false, cnt := 0, phase := .searchingPilot
        pilot_cnt := 0, bad_cnt := 0, unclass_cnt := 0, syn_on := false, syn_off := false
        half_pend := false, half_one := false, bitpos := 0, sh := 0, bptr := 0, blen := 0, xsum := 0
        hdr_valid := false, hdr_type := 0, hdr_name := #v[0, 0, 0, 0, 0, 0, 0, 0, 0, 0]
        hdr_len := 0, hdr_p1 := 0, hdr_p2 := 0
        err_seen := false, last_err := 0, err_cnt := 0, ill_op := false
        ev0_valid := false, ev0_word := 0, ev1_valid := false, ev1_word := 0
        buf := [], draws := s.draws, input := rest }

/-- 00_scope.md R13, its windows as sets of counts: what `legal` accepts, the default configuration among it, and an
illegal configuration builds no core. -/
def Obligations.IllegalConfigurationIsRefused : Prop :=
  (∀ c : Cfg, legal c = true ↔
    1 ≤ c.NOISE_T ∧
    (∀ k : Category, 0 ≤ tolerance c k) ∧
    (¬ ∃ n, inWindow c .zero n = true ∧ inWindow c .one n = true) ∧
    (¬ ∃ n, inWindow c .pilot n = true ∧ inWindow c .synOn n = true) ∧
    (1 ≤ c.PILOT_LOCK_HDR ∧ c.PILOT_LOCK_HDR ≤ 65535 ∧ 1 ≤ c.PILOT_LOCK_DATA ∧ c.PILOT_LOCK_DATA ≤ 65535) ∧
    c.SILENCE_CYCLE + 1 ≤ 2 ^ c.CNT_W - 1 ∧
    (∀ k : Category, expectedCount c k + tolerance c k < 2 ^ c.CNT_W - 1) ∧
    (c.BAD_PULSE_BUDGET ≤ 254 ∧ c.UNCLASS_TOL ≤ 255) ∧
    1 ≤ c.FS ∧
    (∀ k : Category, expectedCount c k + tolerance c k ≤ c.SILENCE_CYCLE)) ∧
  legal Cfg.default = true ∧
  (∀ s : State, legal s.cfg = false → step s = .refused .illegalConfiguration)

/-- THE MODEL'S CHOICE (log 2): a number no input word has is refused, and only that. -/
def Obligations.OversizedNumberIsRefused : Prop :=
  ∀ (s : State) (w : Nat) (rest : List HostInput), legal s.cfg = true →
    s.input = { rst := false, word := w } :: rest →
    (step s = .refused .notAnInputWord ↔ 2 ^ (s.cfg.SAMPLE_W + 2) ≤ w)

/-! ### Reset, IDLE, RESTART and the reserved operation -/

/-- 10_state.md R62, register by register. THE MODEL'S CHOICES: a buffer entry of unspecified value (20_memory.md R72) is
one that is not listed, and the free draws are numbered from 0 (log 6); no pins are waiting (log 14). -/
def Obligations.ResetValues : Prop :=
  ∀ c : Cfg, State.resetWith c =
    { cfg := c, pos := 0, have_prev := false, prev_neg := false, cnt := 0, phase := .searchingPilot
      pilot_cnt := 0, bad_cnt := 0, unclass_cnt := 0, syn_on := false, syn_off := false
      half_pend := false, half_one := false, bitpos := 0, sh := 0, bptr := 0, blen := 0, xsum := 0
      hdr_valid := false, hdr_type := 0, hdr_name := #v[0, 0, 0, 0, 0, 0, 0, 0, 0, 0]
      hdr_len := 0, hdr_p1 := 0, hdr_p2 := 0
      err_seen := false, last_err := 0, err_cnt := 0, ill_op := false
      ev0_valid := false, ev0_word := 0, ev1_valid := false, ev1_word := 0
      buf := [], draws := 0, input := [] }

/-- 40_host_operations.md R123: IDLE completes in every state, for every value of the ignored bits, and changes nothing
but the event ports. -/
def Obligations.IdleOnlyClearsTheEventPorts : Prop :=
  ∀ (d : Nat) (s : State), exec (.idle d) s =
    .next { s with ev0_valid := false, ev0_word := 0, ev1_valid := false, ev1_word := 0 }

/-- 40_host_operations.md R124: RESTART completes in every state, gives every register its reset value and keeps the
buffer. The model's own fields, `draws` (log 6) and `input` (log 4), are kept as well. -/
def Obligations.RestartResetsTheRegisters : Prop :=
  ∀ (d : Nat) (s : State), exec (.restart d) s = .next
    { cfg := s.cfg, pos := 0, have_prev := false, prev_neg := false, cnt := 0, phase := .searchingPilot
      pilot_cnt := 0, bad_cnt := 0, unclass_cnt := 0, syn_on := false, syn_off := false
      half_pend := false, half_one := false, bitpos := 0, sh := 0, bptr := 0, blen := 0, xsum := 0
      hdr_valid := false, hdr_type := 0, hdr_name := #v[0, 0, 0, 0, 0, 0, 0, 0, 0, 0]
      hdr_len := 0, hdr_p1 := 0, hdr_p2 := 0
      err_seen := false, last_err := 0, err_cnt := 0, ill_op := false
      ev0_valid := false, ev0_word := 0, ev1_valid := false, ev1_word := 0
      buf := s.buf, draws := s.draws, input := s.input }

/-- 40_host_operations.md R125: the reserved word completes in every state and sets `ill_op`, nothing else. -/
def Obligations.ReservedOnlySetsIllOp : Prop :=
  ∀ (d : Nat) (s : State), exec (.reserved d) s =
    .next { s with ill_op := true, ev0_valid := false, ev0_word := 0, ev1_valid := false, ev1_word := 0 }

/-- 10_state.md R52: `ill_op` is set by a reserved word, and only `rst` and RESTART clear it. -/
def Obligations.IllOpIsSticky : Prop :=
  ∀ s t : State, step s = .next t → s.ill_op ≠ t.ill_op →
    ∃ p rest, s.input = p :: rest ∧
      (t.ill_op = true → p.rst = false ∧ ∃ d, decode s.cfg.SAMPLE_W p.word = .ok (.reserved d)) ∧
      (t.ill_op = false → p.rst = true ∨ ∃ d, decode s.cfg.SAMPLE_W p.word = .ok (.restart d))

/-! ### SAMPLE: the edge detector -/

/-- SAMPLE never traps (40_host_operations.md R122): it completes for every sample in every state whose next buffer
entry exists, advancing `pos` and leaving the configuration, `ill_op` and the waiting pins alone. -/
def Obligations.SampleCompletes : Prop :=
  ∀ (v : Int) (s : State), s.bptr.toNat < 65537 →
    ∃ t, exec (.sample v) s = .next t ∧
      t.pos = s.pos + 1 ∧ t.cfg = s.cfg ∧ t.ill_op = s.ill_op ∧ t.input = s.input

/-- THE MODEL'S CHOICE (log 8): the one fault there is, and exactly when. No state reached from reset meets it. -/
def Obligations.SampleFaultsOnlyPastTheBuffer : Prop :=
  ∀ (i : Instr) (s : State) (f : Fault), exec i s = .fault f ↔
    f = .bufferIndexOutOfRange ∧ 65537 ≤ s.bptr.toNat ∧ ∃ v b, i = .sample v ∧ CompletesByte v s b

/-- 41_edge_detector.md R141 and R145: a gated sample, or one of the same sign, only counts, unless it declares silence.
That includes one that finds `cnt` saturated at `SILENCE_CYCLE + 1` (R147's prose; log 10). -/
def Obligations.SampleWithoutEdgeCounts : Prop :=
  ∀ (v : Int) (s : State), NoEdge v s → ¬ DeclaresSilence v s →
    exec (.sample v) s = .next (noEvents { s with pos := s.pos + 1, cnt := min (s.cnt + 1) (2 ^ s.cfg.CNT_W - 1) })

/-- 41_edge_detector.md R142: the seed. -/
def Obligations.SeedStartsTheHalfPulse : Prop :=
  ∀ (v : Int) (s : State), Seeds v s →
    exec (.sample v) s =
      .next (noEvents { s with pos := s.pos + 1, have_prev := true, prev_neg := decide (v < 0), cnt := 1 })

/-- 60_exceptions.md R306, with the re-arm of 41_edge_detector.md R147: silence, by phase. The
sample after one that declares silence never declares it again, even where `SILENCE_CYCLE + 1` is the counter's top value:
that is R147's prose against R140's pseudocode, THE MODEL'S READING (log 10). -/
def Obligations.SilenceByPhase : Prop :=
  ∀ (v : Int) (s : State), DeclaresSilence v s →
    (s.phase = .searchingPilot →
      exec (.sample v) s = .next (noEvents { silenceTaken s with pilot_cnt := 0, bad_cnt := 0 })) ∧
    (s.phase = .pilotLocked ∨ s.phase = .synWait →
      exec (.sample v) s = .next (oneEvent (wordError 3) (errorTaken 3 (silenceTaken s)))) ∧
    (reading s → s.half_pend = true →
      exec (.sample v) s = .next (oneEvent (wordError 1) (errorTaken 1 (silenceTaken s)))) ∧
    (reading s → s.half_pend = false →
      exec (.sample v) s = .next (oneEvent (wordError 3) (errorTaken 3 (silenceTaken s)))) ∧
    (s.phase = .complete → exec (.sample v) s = .next (noEvents (silenceTaken s))) ∧
    (∀ t, exec (.sample v) s = .next t → ∀ w, ¬ DeclaresSilence w t)

/-- 41_edge_detector.md R150: runs of alternating sign are measured, all but the last. The sequence starts at a seed, or
at the edge that closes the half-pulse held before it. -/
def Obligations.SquareWaveIsMeasured : Prop :=
  ∀ (s : State) (neg : Bool) (r : List Int) (rs : List (List Int)), legal s.cfg = true →
    SquareRuns s.cfg.NOISE_T s.cfg.SILENCE_CYCLE neg (r :: rs) →
    (s.have_prev = false → pulsesOf (r :: rs).flatten s = ((r :: rs).dropLast).map List.length) ∧
    (s.have_prev = true → s.prev_neg ≠ neg →
      pulsesOf (r :: rs).flatten s = s.cnt :: ((r :: rs).dropLast).map List.length)

/-- 41_edge_detector.md R146: an emitted length is from 1 to `SILENCE_CYCLE`, and the counter never leaves its width. -/
def Obligations.PulseLengthIsBounded : Prop :=
  ∀ s : State, Reachable s →
    s.cnt ≤ 2 ^ s.cfg.CNT_W - 1 ∧
    ∀ (v : Int) (n : Nat), (edgeDetect v s).pulse = some n → 1 ≤ n ∧ n ≤ s.cfg.SILENCE_CYCLE

/-! ### SAMPLE: the classifier -/

/-- 42_pulse_classifier.md R160 to R163 in plain arithmetic: the bit of each category in the class vector. -/
def Obligations.ClassVectorIsTheSetOfWindows : Prop :=
  ∀ (c : Cfg) (n : Nat),
    let has := fun (bit t tol : Nat) =>
      ((classOf c n).getLsbD bit = true ↔
        (2 * t * c.FS + c.TSTATE_HZ) / (2 * c.TSTATE_HZ) ≤ n + tol ∧
        n ≤ (2 * t * c.FS + c.TSTATE_HZ) / (2 * c.TSTATE_HZ) + tol)
    has 0 c.T_PILOT c.TOL_PILOT ∧ has 1 c.T_ONE c.TOL_ONE ∧ has 2 c.T_ZERO c.TOL_ZERO ∧
      has 3 c.T_SYN_ON c.TOL_SYN_ON ∧ has 4 c.T_SYN_OFF c.TOL_SYN_OFF

/-- 42_pulse_classifier.md R165: the table at the default configuration, for every length. -/
def Obligations.DefaultClassTable : Prop :=
  ∀ n : Nat, classOf Cfg.default n =
    if n = 7 then 0b01000#5
    else if n = 8 ∨ n = 9 then 0b11000#5
    else if n = 10 then 0b10100#5
    else if n = 11 ∨ n = 12 then 0b00100#5
    else if 21 ≤ n ∧ n ≤ 23 then 0b00010#5
    else if 26 ≤ n ∧ n ≤ 28 then 0b00001#5
    else 0b00000#5

/-- 42_pulse_classifier.md R164: a table deep enough for every window holds and gives `class`, gives 0 past its end, and
no step changes it. -/
def Obligations.LookupTableIsTheClassifier : Prop :=
  (∀ (c : Cfg) (depth n : Nat), (∀ k : Category, expectedCount c k + tolerance c k < depth) →
    (n < depth → (classTable c depth)[n]? = some (classOf c n)) ∧
    (depth ≤ n → tableLookup (classTable c depth) n = 0#5) ∧
    tableLookup (classTable c depth) n = classOf c n) ∧
  (∀ (s t : State) (depth : Nat), step s = .next t → classTable t.cfg depth = classTable s.cfg depth)

/-- 42_pulse_classifier.md R166, last sentence: with a legal configuration the test order changes no result. -/
def Obligations.TestOrderNeverMatters : Prop :=
  ∀ c : Cfg, legal c = true → ∀ n : Nat,
    ¬ (hasCategory (classOf c n) .zero = true ∧ hasCategory (classOf c n) .one = true) ∧
    ¬ (hasCategory (classOf c n) .pilot = true ∧ hasCategory (classOf c n) .synOn = true)

/-! ### SAMPLE: pilot and sync -/

/-- 43_pilot_sync.md R181, R182, R184: a PILOT pulse counts, and the lock test. -/
def Obligations.PilotPulseCountsAndLocks : Prop :=
  ∀ (v : Int) (s : State), EdgeAt v s → s.phase = .searchingPilot → Measures .pilot s →
    let n := min (s.pilot_cnt.toNat + 1) 65535
    let thr := if s.hdr_valid = true then s.cfg.PILOT_LOCK_DATA else s.cfg.PILOT_LOCK_HDR
    (thr ≤ n → exec (.sample v) s = .next (oneEvent wordPilotLocked
      { edgeTaken v s with pilot_cnt := BitVec.ofNat 16 n, phase := .pilotLocked, bad_cnt := 0 })) ∧
    (n < thr → exec (.sample v) s = .next (noEvents { edgeTaken v s with pilot_cnt := BitVec.ofNat 16 n }))

/-- 43_pilot_sync.md R183: a pulse that is not PILOT spends the budget. Where `bad_cnt` is 255 its u8 increment has no
value the rule states (log 11); 10_state.md R54 (i) and 00_scope.md R13 (h) rule that out of every reachable state. -/
def Obligations.BadPulseSpendsTheBudget : Prop :=
  ∀ (v : Int) (s : State), EdgeAt v s → s.phase = .searchingPilot → ¬ Measures .pilot s →
    s.bad_cnt.toNat < 255 →
    let budget := if s.cfg.STRICT_MODE = true then 0 else s.cfg.BAD_PULSE_BUDGET
    (s.pilot_cnt = 0 → exec (.sample v) s = .next (noEvents (edgeTaken v s))) ∧
    (s.pilot_cnt ≠ 0 → budget < s.bad_cnt.toNat + 1 →
      exec (.sample v) s = .next (noEvents { edgeTaken v s with pilot_cnt := 0, bad_cnt := 0 })) ∧
    (s.pilot_cnt ≠ 0 → s.bad_cnt.toNat + 1 ≤ budget →
      exec (.sample v) s = .next (noEvents { edgeTaken v s with bad_cnt := BitVec.ofNat 8 (s.bad_cnt.toNat + 1) }))

/-- 43_pilot_sync.md R186 and R187: the pulses PILOT_LOCKED accepts. -/
def Obligations.LockedPilotAndSynOn : Prop :=
  ∀ (v : Int) (s : State), EdgeAt v s → s.phase = .pilotLocked →
    (Measures .pilot s → exec (.sample v) s = .next (noEvents
      { edgeTaken v s with pilot_cnt := BitVec.ofNat 16 (min (s.pilot_cnt.toNat + 1) 65535), unclass_cnt := 0 })) ∧
    (¬ Measures .pilot s → Measures .synOn s → exec (.sample v) s = .next (noEvents
      { edgeTaken v s with syn_on := true, phase := .synWait, unclass_cnt := 0 }))

/-- 43_pilot_sync.md R190: SYN_OFF starts a block, in the phase `hdr_valid` guesses. -/
def Obligations.SynOffStartsABlock : Prop :=
  ∀ (v : Int) (s : State), EdgeAt v s → s.phase = .synWait → Measures .synOff s →
    exec (.sample v) s = .next (noEvents
      { edgeTaken v s with
        syn_off := true, unclass_cnt := 0
        phase := if s.hdr_valid = true then .readingData else .readingHeader
        bptr := 0, blen := 0, xsum := 0, bitpos := 0, sh := 0, half_pend := false, half_one := false })

/-- 60_exceptions.md R307 in its four phases (43_pilot_sync.md R188, R191; 44_bit_byte_decoder.md R214): an unaccepted
pulse is discarded, or is an error. Where `unclass_cnt` is 255 and `UNCLASS_TOL` is above it, that the u8 increment gives
0 is THE MODEL'S READING (log 11); 00_scope.md R13 (h) makes such a configuration illegal. -/
def Obligations.UnacceptedPulse : Prop :=
  ∀ (v : Int) (s : State), EdgeAt v s → Unaccepts s →
    (s.unclass_cnt.toNat < s.cfg.UNCLASS_TOL → exec (.sample v) s =
      .next (noEvents { edgeTaken v s with unclass_cnt := s.unclass_cnt + 1 })) ∧
    (s.cfg.UNCLASS_TOL ≤ s.unclass_cnt.toNat → exec (.sample v) s =
      .next (oneEvent (wordError 2) (errorTaken 2 (edgeTaken v s))))

/-! ### SAMPLE: bits and bytes -/

/-- 44_bit_byte_decoder.md R211, R213 and, for the first seven bits, R212 with R216: what an accepted half-pulse does. -/
def Obligations.HalfPulsesMakeBits : Prop :=
  ∀ (v : Int) (s : State) (b : Bool), EdgeAt v s → reading s → TakesBit b s →
    (s.half_pend = false → exec (.sample v) s =
      .next (noEvents { edgeTaken v s with unclass_cnt := 0, half_pend := true, half_one := b })) ∧
    (s.half_pend = true → s.half_one ≠ b → exec (.sample v) s =
      .next (oneEvent (wordError 1) (errorTaken 1 (edgeTaken v s)))) ∧
    (s.half_pend = true → s.half_one = b → s.bitpos ≠ 7 → exec (.sample v) s =
      .next (noEvents { edgeTaken v s with
        unclass_cnt := 0, half_pend := false, half_one := false, bitpos := s.bitpos + 1
        sh := BitVec.ofNat 8 (2 * s.sh.toNat + b.toNat) }))

/-- 44_bit_byte_decoder.md R217: the eight bits the encoder sends of a byte are rebuilt into it. -/
def Obligations.SentBitsRebuildTheByte : Prop :=
  ∀ (v : Byte) (s : State), s.bitpos = 0 → s.sh = 0 → feedBits (byteBits v) s = byteDone v s

/-- 44_bit_byte_decoder.md R218, for a byte that neither starts nor ends its block. -/
def Obligations.MiddleByteIsStored : Prop :=
  ∀ (v : Int) (s : State) (b : Byte), CompletesByte v s b → s.bptr ≠ 0 → s.bptr.toNat < 65537 →
    s.bptr + 1 ≠ s.blen →
    exec (.sample v) s = .next (oneEvent (wordByte s.bptr.toNat b) (byteTaken v b s))

/-- 45_block_checksum.md R242, R243 and R252: the block-type byte. -/
def Obligations.TypeByteFramesTheBlock : Prop :=
  ∀ (v : Int) (s : State) (b : Byte), CompletesByte v s b → s.bptr = 0 →
    (b = 0x00#8 → exec (.sample v) s = .next (oneEvent (wordByte 0 b)
      { byteTaken v b s with phase := .readingHeader, blen := 19 })) ∧
    (b = 0xFF#8 → s.hdr_valid = true → exec (.sample v) s = .next (oneEvent (wordByte 0 b)
      { byteTaken v b s with phase := .readingData, blen := BitVec.ofNat 17 (s.hdr_len.toNat + 2) })) ∧
    (b ≠ 0x00#8 → ¬ (b = 0xFF#8 ∧ s.hdr_valid = true) → exec (.sample v) s =
      .next (twoEvents (wordByte 0 b) (wordError 4) (errorTaken 4 (byteTaken v b s))))

/-- 45_block_checksum.md R247: the last byte of a block whose checksum fails. -/
def Obligations.ChecksumMismatchRejects : Prop :=
  ∀ (v : Int) (s : State) (b : Byte), CompletesByte v s b → s.bptr ≠ 0 → s.bptr.toNat < 65537 →
    s.bptr + 1 = s.blen → s.xsum ^^^ b ≠ 0 →
    exec (.sample v) s =
      .next (twoEvents (wordByte s.bptr.toNat b) (wordError 0) (errorTaken 0 (byteTaken v b s)))

/-- 45_block_checksum.md R248 and R249: the last byte of a good header block latches the header. `h i` is the byte in
entry `i` once the step has stored its own; every reachable state has those entries (20_memory.md R70). THE MODEL'S
CHOICES: in a block that ends before entry 18, which no run reaches, the byte just stored is the one latched (log 7);
`draws` advances (log 6). -/
def Obligations.GoodHeaderIsLatched : Prop :=
  ∀ (v : Int) (s : State) (b : Byte) (h : Nat → Byte), CompletesByte v s b → s.phase = .readingHeader →
    s.bptr ≠ 0 → s.bptr.toNat < 65537 → s.bptr + 1 = s.blen → s.xsum ^^^ b = 0 →
    (∀ i, 1 ≤ i → i ≤ 17 → (s.buf.write s.bptr.toNat b).read? i = some (h i)) →
    exec (.sample v) s = .next (twoEvents (wordByte s.bptr.toNat b) wordHeader
      (acquisitionCleared { byteTaken v b s with
        hdr_type := h 1
        hdr_name := #v[h 2, h 3, h 4, h 5, h 6, h 7, h 8, h 9, h 10, h 11]
        hdr_len := BitVec.ofNat 16 ((h 12).toNat + 256 * (h 13).toNat)
        hdr_p1 := BitVec.ofNat 16 ((h 14).toNat + 256 * (h 15).toNat)
        hdr_p2 := BitVec.ofNat 16 ((h 16).toNat + 256 * (h 17).toNat)
        hdr_valid := true
        draws := s.draws + 1 }))

/-- 45_block_checksum.md R250: the last byte of a good data block completes the session, and leaves
`bptr = blen = hdr_len + 2` where the block has the length R243 gave it. -/
def Obligations.GoodDataCompletes : Prop :=
  ∀ (v : Int) (s : State) (b : Byte), CompletesByte v s b → s.phase = .readingData →
    s.bptr ≠ 0 → s.bptr.toNat < 65537 → s.bptr + 1 = s.blen → s.xsum ^^^ b = 0 →
    let t := { byteTaken v b s with phase := .complete }
    exec (.sample v) s = .next (twoEvents (wordByte s.bptr.toNat b) (wordComplete s.hdr_len.toNat) t) ∧
      t.bptr = t.blen ∧ t.xsum = 0 ∧ (s.blen.toNat = s.hdr_len.toNat + 2 → t.bptr.toNat = t.hdr_len.toNat + 2)

/-! ### Whole blocks -/

/-- 45_block_checksum.md R256 and R257 with R250 and R251: a data block of the held length that carries its checksum is
stored, the type byte in `buf[0]`, its payload in `buf[1 .. hdr_len]` and the checksum in `buf[hdr_len + 1]`
(20_memory.md R75), and completes. The entries above keep what they held (R72). -/
def Obligations.DataBlockCompletes : Prop :=
  ∀ (s : State) (payload : List Byte), reading s → s.hdr_valid = true → payload.length = s.hdr_len.toNat →
    s.bptr = 0 → s.xsum = 0 →
    ∃ t, feedBytes (blockBytes 0xFF#8 payload) s =
        .ok (t, byteEvents 0 (blockBytes 0xFF#8 payload) ++ [.complete (BitVec.ofNat 17 payload.length)]) ∧
      t.buf.read? 0 = some 0xFF#8 ∧
      (∀ i < payload.length, t.buf.read? (i + 1) = payload[i]?) ∧
      t.buf.read? (payload.length + 1) = some (xorBytes (0xFF#8 :: payload)) ∧
      (∀ a : Nat, payload.length + 2 ≤ a → t.buf.read? a = s.buf.read? a) ∧
      t = { s with phase := .complete, bptr := BitVec.ofNat 17 (payload.length + 2)
                   blen := BitVec.ofNat 17 (payload.length + 2), xsum := 0, buf := t.buf }

/-- 45_block_checksum.md R248, R249, R254 and R257: a header block that carries its checksum latches every header
register, whether or not a header is held, and the search starts again. The block is in the buffer, and the entries above
it keep what they held (20_memory.md R72, R75). That `draws` advances is THE MODEL'S CHOICE (log 6). -/
def Obligations.HeaderBlockLatches : Prop :=
  ∀ (s : State) (f : Byte) (name : List Byte) (n : Nat) (p1 p2 : BitVec 16), reading s → n ≤ 65535 →
    s.bptr = 0 → s.xsum = 0 →
    let bs := blockBytes 0x00#8 (headerPayload f name n p1 p2)
    ∃ t, feedBytes bs s = .ok (t, byteEvents 0 bs ++ [.header]) ∧
      t = acquisitionCleared { s with
        hdr_valid := true, hdr_type := f, hdr_name := t.hdr_name, hdr_len := BitVec.ofNat 16 n, hdr_p1 := p1
        hdr_p2 := p2, buf := t.buf, draws := s.draws + 1 } ∧
      t.hdr_name.toList = padName name ∧
      (∀ i < 19, t.buf.read? i = bs[i]?) ∧ (∀ a : Nat, 19 ≤ a → t.buf.read? a = s.buf.read? a)

/-- 45_block_checksum.md R258: one byte after the type byte of a well-formed block changed by a non-zero difference, the
block keeps its length and ends with ChecksumMismatch and no COMPLETE or HEADER, whatever its type. The bytes as received
are in the buffer, and the entries above them keep what they held (20_memory.md R71, R72). -/
def Obligations.CorruptedByteIsDetected : Prop :=
  ∀ (s : State) (type : Byte) (payload : List Byte) (k : Nat) (d : Byte), reading s →
    (type = 0x00#8 ∧ payload.length = 17 ∨
      type = 0xFF#8 ∧ s.hdr_valid = true ∧ payload.length = s.hdr_len.toNat) →
    s.bptr = 0 → s.xsum = 0 → 1 ≤ k → k < payload.length + 2 → d ≠ 0 →
    let bs := (blockBytes type payload).modify k (· ^^^ d)
    ∃ t, feedBytes bs s = .ok (t, byteEvents 0 bs ++ [.error .checksumMismatch]) ∧
      t = errorTaken 0 { s with buf := t.buf } ∧
      (∀ i < bs.length, t.buf.read? i = bs[i]?) ∧ (∀ a : Nat, bs.length ≤ a → t.buf.read? a = s.buf.read? a)

/-- 45_block_checksum.md R260: COMPLETE absorbs every sample, and only RESTART or `rst` leaves it. The edge detector goes
on: an edge starts the next half-pulse (41_edge_detector.md R144), and the half-pulse it closes is not looked at. -/
def Obligations.CompleteAbsorbsEveryInput : Prop :=
  (∀ (v : Int) (s : State), s.phase = .complete →
    ∃ armed neg n, exec (.sample v) s =
      .next (noEvents { s with pos := s.pos + 1, have_prev := armed, prev_neg := neg, cnt := n })) ∧
  (∀ (v : Int) (s : State), s.phase = .complete → EdgeAt v s →
    exec (.sample v) s = .next (noEvents (edgeTaken v s))) ∧
  (∀ s t : State, s.phase = .complete → step s = .next t → t.phase ≠ .complete →
    ∃ p rest, s.input = p :: rest ∧
      (p.rst = true ∨ ∃ d, decode s.cfg.SAMPLE_W p.word = .ok (.restart d)))

/-! ### Events, errors and frames, for every instruction -/

/-- 40_host_operations.md R127: the event lists a step can produce, and no other. -/
def Obligations.SevenEventLists : Prop :=
  ∀ (i : Instr) (s t : State), exec i s = .next t →
    eventsOnPorts t = [] ∨ eventsOnPorts t = [wordPilotLocked] ∨
    (∃ code, 1 ≤ code ∧ code ≤ 3 ∧ eventsOnPorts t = [wordError code]) ∨
    (∃ n v, n < 65537 ∧
      (eventsOnPorts t = [wordByte n v] ∨
       eventsOnPorts t = [wordByte n v, wordError 0] ∨
       eventsOnPorts t = [wordByte n v, wordError 4] ∨
       eventsOnPorts t = [wordByte n v, wordHeader] ∨
       ∃ len, len ≤ 65535 ∧ eventsOnPorts t = [wordByte n v, wordComplete len]))

/-- 60_exceptions.md R300: each error is on the ports exactly when its condition holds, no other code ever is, and
nothing raises an error in SEARCHING_PILOT or COMPLETE. That a sample declares no
silence where it finds `cnt` at `SILENCE_CYCLE + 1`, the counter's top value, is R147's prose, THE MODEL'S READING
(log 10). -/
def Obligations.ErrorsExactlyAsTabled : Prop :=
  ∀ (i : Instr) (s t : State), exec i s = .next t →
    (∀ code < 8, (wordError code ∈ eventsOnPorts t ↔ ∃ v, i = .sample v ∧ RaisesOn v s code)) ∧
    (s.phase = .searchingPilot ∨ s.phase = .complete → ∀ code < 8, wordError code ∉ eventsOnPorts t)

/-- 60_exceptions.md R303 to R305: after an error the search starts again with the acquisition cleared and the error
logged; `pos`, the edge detector, the header and `ill_op` are kept. A sample that completes a byte has stored and announced
it before the error (R303), and no other buffer entry changes; one that completes none leaves the whole buffer as it was. -/
def Obligations.ErrorRestartsTheSearch : Prop :=
  ∀ (v : Int) (s t : State) (code : Nat), code < 8 → exec (.sample v) s = .next t →
    wordError code ∈ eventsOnPorts t →
    let e := (edgeDetect v { s with pos := s.pos + 1 }).st
    (∀ a : Nat, a ≠ s.bptr.toNat → t.buf.read? a = s.buf.read? a) ∧
    (∀ b, CompletesByte v s b →
      t = twoEvents (wordByte s.bptr.toNat b) (wordError code) { errorTaken code e with buf := t.buf } ∧
      t.buf.read? s.bptr.toNat = some b) ∧
    ((¬ ∃ b, CompletesByte v s b) → t = oneEvent (wordError code) (errorTaken code e) ∧ t.buf = s.buf)

/-- 10_state.md R51: only an ERROR event writes the error log, and only `rst` and RESTART clear it. -/
def Obligations.ErrorLogFollowsTheEvents : Prop :=
  ∀ (i : Instr) (s t : State), exec i s = .next t →
    (∀ code < 8, wordError code ∈ eventsOnPorts t →
      t.err_seen = true ∧ t.last_err.toNat = code ∧ t.err_cnt.toNat = min (s.err_cnt.toNat + 1) 65535) ∧
    ((∀ code < 8, wordError code ∉ eventsOnPorts t) → (∀ d, i ≠ .restart d) →
      t.err_seen = s.err_seen ∧ t.last_err = s.last_err ∧ t.err_cnt = s.err_cnt)

/-- 10_state.md R50: the header registers change only with a HEADER event, or all to 0 by RESTART. -/
def Obligations.HeaderRegistersChangeTogether : Prop :=
  ∀ (i : Instr) (s t : State), exec i s = .next t →
    (t.hdr_valid = true ∧ wordHeader ∈ eventsOnPorts t) ∨
    (wordHeader ∉ eventsOnPorts t ∧ (∃ d, i = .restart d) ∧
      t.hdr_valid = false ∧ t.hdr_type = 0 ∧ t.hdr_name.toList = List.replicate 10 0 ∧ t.hdr_len = 0 ∧
      t.hdr_p1 = 0 ∧ t.hdr_p2 = 0) ∨
    (wordHeader ∉ eventsOnPorts t ∧ (∀ d, i ≠ .restart d) ∧
      t.hdr_valid = s.hdr_valid ∧ t.hdr_type = s.hdr_type ∧ t.hdr_name = s.hdr_name ∧ t.hdr_len = s.hdr_len ∧
      t.hdr_p1 = s.hdr_p1 ∧ t.hdr_p2 = s.hdr_p2)

/-- 20_memory.md R71 and R72, for every instruction: a completed byte is stored in entry `bptr`, and no other entry of
the buffer changes; an instruction that completes no byte changes none. -/
def Obligations.OnlyACompletedByteIsStored : Prop :=
  ∀ (i : Instr) (s t : State), exec i s = .next t →
    (∀ v b, i = .sample v → CompletesByte v s b →
      t.buf.read? s.bptr.toNat = some b ∧
      ∀ a : Nat, a ≠ s.bptr.toNat → t.buf.read? a = s.buf.read? a) ∧
    ((¬ ∃ v b, i = .sample v ∧ CompletesByte v s b) → ∀ a : Nat, t.buf.read? a = s.buf.read? a)

/-- 70_reset_and_hazards.md R346 and 00_scope.md R8: no step changes the configuration. -/
def Obligations.ConfigurationNeverChanges : Prop :=
  ∀ s t : State, step s = .next t → t.cfg = s.cfg

/-! ### Ports -/

/-- 20_memory.md R73: the buffer port, for an entry a step has written and for an address past the buffer. What an
unwritten entry reads as is free (R74; log 6), and nothing is stated of it. -/
def Obligations.BufferPortReads : Prop :=
  ∀ (draw : Nat) (s : State) (addr : BitVec 17),
    (addr.toNat < 65537 → ∀ v, s.buf.read? addr.toNat = some v → bufferPort draw s addr = v) ∧
    (65537 ≤ addr.toNat → bufferPort draw s addr = 0x00#8)

/-- 10_state.md R60 and R61: every field of the status port. At CNT it is asked that `cnt` fit its width and the width
the port (log 9). -/
def Obligations.StatusPortMap : Prop :=
  ∀ s : State,
    let st := statusPort s
    (st 0x0).extractLsb' 0 3 =
      (match s.phase with
       | .searchingPilot => 0 | .pilotLocked => 1 | .synWait => 2 | .readingHeader => 3 | .readingData => 4
       | .complete => 5) ∧
    (st 0x0).getLsbD 3 = s.hdr_valid ∧ (st 0x0).getLsbD 4 = s.syn_on ∧ (st 0x0).getLsbD 5 = s.syn_off ∧
    (st 0x0).getLsbD 6 = s.half_pend ∧ (st 0x0).getLsbD 7 = s.half_one ∧ (st 0x0).getLsbD 8 = s.have_prev ∧
    (st 0x0).getLsbD 9 = s.prev_neg ∧ (st 0x0).getLsbD 10 = s.ill_op ∧
    (st 0x0).extractLsb' 11 3 = s.bitpos ∧ (st 0x0).getLsbD 14 = s.err_seen ∧
    (st 0x0).extractLsb' 15 3 = s.last_err ∧ (st 0x0).getLsbD 18 = decide (s.phase ≠ .complete) ∧
    (st 0x0).extractLsb' 19 13 = 0 ∧
    st 0x1 = s.pos ∧
    (s.cnt < 2 ^ s.cfg.CNT_W → s.cfg.CNT_W ≤ 32 → (st 0x2).toNat = s.cnt) ∧
    (st 0x3).extractLsb' 0 16 = s.pilot_cnt ∧ (st 0x3).extractLsb' 16 8 = s.bad_cnt ∧
    (st 0x3).extractLsb' 24 8 = s.unclass_cnt ∧
    (st 0x4).toNat = s.sh.toNat + 256 * s.xsum.toNat ∧
    (st 0x5).toNat = s.bptr.toNat ∧ (st 0x6).toNat = s.blen.toNat ∧ (st 0x7).toNat = s.err_cnt.toNat ∧
    (st 0x8).toNat = s.hdr_type.toNat + 256 * s.hdr_len.toNat ∧
    (st 0x9).extractLsb' 0 16 = s.hdr_p1 ∧ (st 0x9).extractLsb' 16 16 = s.hdr_p2 ∧
    (∀ k : Fin 4, (st 0xA).extractLsb' (8 * k.val) 8 = s.hdr_name[k.val]) ∧
    (∀ k : Fin 4, (st 0xB).extractLsb' (8 * k.val) 8 = s.hdr_name[4 + k.val]) ∧
    (st 0xC).toNat = s.hdr_name[8].toNat + 256 * s.hdr_name[9].toNat ∧
    st 0xD = 0 ∧ st 0xE = 0 ∧ st 0xF = 0

/-! ### The stimulus, outside the core -/

/-- 48_line_code_stimulus.md R283: a writer of `d` T-states emits the floor or one more, and at 44100 Hz the pulses have
the lengths of the table, each in the window of its category. -/
def Obligations.StimulusRunLengths : Prop :=
  (∀ (c : Cfg) (tau d : Nat), 1 ≤ c.TSTATE_HZ →
    runLength c tau d = d * c.FS / c.TSTATE_HZ ∨ runLength c tau d = d * c.FS / c.TSTATE_HZ + 1) ∧
  (∀ tau : Nat,
    let n := runLength Cfg.default tau
    (n 2168 = 27 ∨ n 2168 = 28) ∧ (n 667 = 8 ∨ n 667 = 9) ∧ (n 735 = 9 ∨ n 735 = 10) ∧
    (n 1710 = 21 ∨ n 1710 = 22) ∧ (n 855 = 10 ∨ n 855 = 11) ∧
    inWindow Cfg.default .pilot (n 2168) = true ∧ inWindow Cfg.default .synOn (n 667) = true ∧
    inWindow Cfg.default .synOff (n 735) = true ∧ inWindow Cfg.default .one (n 1710) = true ∧
    inWindow Cfg.default .zero (n 855) = true)

/-- 48_line_code_stimulus.md R284, the round trip: the default file stimulus of any name and any payload that fits,
fed word by word from reset, gives exactly its events, its header registers and its payload. -/
def Obligations.RoundTrip : Prop :=
  ∀ (f : Byte) (name payload : List Byte) (p1 p2 : BitVec 16), payload.length ≤ 65535 →
    let header := blockBytes 0x00#8 (headerPayload f name payload.length p1 p2)
    let data := blockBytes 0xFF#8 payload
    ∃ ws u, fileWords Cfg.default {} f name payload p1 p2 = .ok ws ∧
      feed (wordPins ws) State.reset = .next (u,
        [wordPilotLocked] ++ (byteEvents 0 header).map eventWord ++ [wordHeader]
          ++ [wordPilotLocked] ++ (byteEvents 0 data).map eventWord ++ [wordComplete payload.length]) ∧
      u.phase = .complete ∧ u.hdr_type = f ∧ u.hdr_name.toList = padName name ∧
      u.hdr_len.toNat = payload.length ∧ u.hdr_p1 = p1 ∧ u.hdr_p2 = p2 ∧
      ∀ i < payload.length, u.buf.read? (i + 1) = payload[i]?

/-! ### Invariants and whole-machine rules -/

/-- The invariant holds at reset (10_state.md R54, R62). -/
def Obligations.ResetMeetsInv : Prop :=
  (∀ c : Cfg, legal c = true → Inv (State.resetWith c)) ∧ Inv State.reset

/-- The invariant is kept by every step from every state that meets it, reached or not (10_state.md R54). -/
def Obligations.StepKeepsInv : Prop :=
  ∀ s t : State, Inv s → step s = .next t → Inv t

/-- 10_state.md R54, clauses (a) to (j), of every state the host can bring the core to. -/
def Obligations.ReachableStatesMeetR54 : Prop :=
  ∀ s : State, Reachable s → StateRules s

/-- No error is fatal and no word traps (60_exceptions.md R304, 40_host_operations.md R122): a state that meets the
invariant, with words the port can carry, always has a next state. -/
def Obligations.InvariantStatesNeverStop : Prop :=
  ∀ s : State, Inv s → inputFits s → ∃ t, step s = .next t

/-- 41_edge_detector.md R147 with 60_exceptions.md R306: an unarmed detector means no pilot run and no block under way.
It holds after reset, and every step keeps it, from every state that meets it. -/
def Obligations.UnarmedDetectorIsIdle : Prop :=
  (∀ c : Cfg, UnarmedIdle (State.resetWith c)) ∧
  (∀ s t : State, UnarmedIdle s → step s = .next t → UnarmedIdle t)

/-- 70_reset_and_hazards.md R345 and 60_exceptions.md R306: more than `SILENCE_CYCLE` zero samples bring any unfinished
acquisition back to an unarmed search with no pilot counted; the header and the buffer are kept. -/
def Obligations.SilenceResynchronises : Prop :=
  ∀ (s : State) (n : Nat), Inv s → UnarmedIdle s → s.phase ≠ .complete → s.cfg.SILENCE_CYCLE < n →
    ∃ t evs, feed (wordPins (List.replicate n (sampleWord s.cfg.SAMPLE_W 0))) s = .next (t, evs) ∧
      t.phase = .searchingPilot ∧ t.have_prev = false ∧ t.pilot_cnt = 0 ∧ t.bad_cnt = 0 ∧
      t.hdr_valid = s.hdr_valid ∧ t.hdr_type = s.hdr_type ∧ t.hdr_name = s.hdr_name ∧ t.hdr_len = s.hdr_len ∧
      t.hdr_p1 = s.hdr_p1 ∧ t.hdr_p2 = s.hdr_p2 ∧ t.buf = s.buf ∧
      (evs = [] ∨ evs = [wordError 1] ∨ evs = [wordError 3])

/-- 70_reset_and_hazards.md R331: RESTART leaves the buffer unchanged, and what any words do after `rst` they do after
RESTART, from any state of the same configuration, up to buffer contents. -/
def Obligations.RestartForgetsTheSession : Prop :=
  (∀ (d : Nat) (s t : State), exec (.restart d) s = .next t → t.buf = s.buf) ∧
  (∀ (s s' u : State) (d : Nat) (ws : List Nat) (evs : List EventWord), s'.cfg = s.cfg → d < 2 ^ s.cfg.SAMPLE_W →
    feed ({ rst := true, word := 0 } :: wordPins ws) s = .next (u, evs) →
    ∃ u', feed (wordPins ((2 ^ (s.cfg.SAMPLE_W + 1) + d) :: ws)) s' = .next (u', evs) ∧ sameRegisters u' u)

/-- 70_reset_and_hazards.md R342: taking every IDLE word out of any sequence of words leaves the same events in the same
order and the same final state, but for the event ports. -/
def Obligations.ChunkInvariance : Prop :=
  ∀ (s u : State) (ws : List Nat) (evs : List EventWord), s.input = [] →
    feed (wordPins ws) s = .next (u, evs) →
    ∃ u', feed (wordPins (ws.filter (fun w => decide (2 ^ s.cfg.SAMPLE_W ≤ w)))) s = .next (u', evs) ∧
      noEvents u' = noEvents u

end
end

