-- ==== Sys2Proof/Laws/Memory.lean ====
section
/-! SUPPORT. The byte buffer: a read after a write, and the canonical form every write keeps (20_memory.md R70). -/

namespace Sys2Proof.Machine

open Sys2Proof.Config

@[simp] theorem Memory.read?_nil (a : Nat) : Memory.read? [] a = none := rfl

theorem Memory.read?_cons (b : Nat) (v : Byte) (m : Memory) (a : Nat) :
    Memory.read? ((b, v) :: m) a = if a = b then some v else Memory.read? m a := rfl

@[simp] theorem Memory.read?_write_same (m : Memory) (a : Nat) (v : Byte) : (m.write a v).read? a = some v := by
  induction m with
  | nil => simp [Memory.write, Memory.read?]
  | cons x m ih =>
    obtain ⟨b, w⟩ := x
    unfold Memory.write
    split
    · simp [Memory.read?]
    · split
      · simp [Memory.read?]
      · rename_i h
        simp [Memory.read?, h, ih]

@[simp] theorem Memory.read?_write_ne (m : Memory) {a b : Nat} (v : Byte) (h : b ≠ a) :
    (m.write a v).read? b = m.read? b := by
  induction m with
  | nil => simp [Memory.write, Memory.read?, h]
  | cons x m ih =>
    obtain ⟨c, w⟩ := x
    unfold Memory.write
    split
    · simp [Memory.read?, h]
    · split
      · rename_i hac
        subst hac
        simp [Memory.read?, h]
      · simp [Memory.read?, ih]

theorem Memory.read?_write (m : Memory) (a b : Nat) (v : Byte) :
    (m.write a v).read? b = if b = a then some v else m.read? b := by
  by_cases h : b = a
  · simp [h]
  · simp [h]

/-- The indices of a written buffer are those it had, and the one written. -/
theorem Memory.mem_write {m : Memory} {a : Nat} {v : Byte} {x : Host.Cell} (h : x ∈ m.write a v) :
    x = (a, v) ∨ x ∈ m := by
  induction m with
  | nil => simpa [Memory.write] using h
  | cons y m ih =>
    obtain ⟨b, w⟩ := y
    unfold Memory.write at h
    split at h
    · simpa using h
    · split at h
      · simp only [List.mem_cons] at h ⊢
        tauto
      · simp only [List.mem_cons] at h ⊢
        rcases h with h | h
        · exact .inr (.inl h)
        · rcases ih h with h | h
          · exact .inl h
          · exact .inr (.inr h)

/-- A write to an entry of the buffer keeps the canonical form. -/
theorem Memory.wf_write {m : Memory} {a : Nat} (v : Byte) (hm : m.wf) (ha : a < bufDepth) : (m.write a v).wf := by
  refine ⟨?_, fun x hx => ?_⟩
  · have hp := hm.1
    clear hm ha
    induction m with
    | nil => simp [Memory.write]
    | cons y m ih =>
      obtain ⟨b, w⟩ := y
      obtain ⟨hy, hp'⟩ := List.pairwise_cons.1 hp
      unfold Memory.write
      split
      · rename_i hab
        refine List.pairwise_cons.2 ⟨fun z hz => ?_, hp⟩
        rcases List.mem_cons.1 hz with rfl | hz
        · exact hab
        · exact Nat.lt_trans hab (hy z hz)
      · split
        · rename_i hab
          subst hab
          exact List.pairwise_cons.2 ⟨hy, hp'⟩
        · refine List.pairwise_cons.2 ⟨fun z hz => ?_, ih hp'⟩
          rcases Memory.mem_write hz with rfl | hz
          · show b < a
            omega
          · exact hy z hz
  · rcases Memory.mem_write hx with rfl | hx
    · exact ha
    · exact hm.2 x hx

theorem Memory.wf_nil : Memory.wf [] := by simp [Memory.wf]

/-- Equal memories are equal data: two buffers in canonical form that read alike are the same list. -/
theorem Memory.ext_of_read? {m n : Memory} (hm : m.wf) (hn : n.wf) (h : ∀ a, m.read? a = n.read? a) : m = n := by
  have below : ∀ {k : Memory} {b : Nat}, (∀ x ∈ k, b < x.1) → ∀ a ≤ b, k.read? a = none := by
    intro k b hk
    induction k with
    | nil => simp
    | cons x k ih =>
      intro a hab
      obtain ⟨c, w⟩ := x
      have hc : b < c := hk (c, w) (by simp)
      rw [Memory.read?_cons, if_neg (by omega)]
      exact ih (fun y hy => hk y (by simp [hy])) a hab
  induction m generalizing n with
  | nil =>
    cases n with
    | nil => rfl
    | cons y n =>
      obtain ⟨b, w⟩ := y
      have := h b
      simp [Memory.read?] at this
  | cons x m ih =>
    obtain ⟨a, v⟩ := x
    cases n with
    | nil =>
      have := h a
      simp [Memory.read?] at this
    | cons y n =>
      obtain ⟨b, w⟩ := y
      obtain ⟨hx, hpm⟩ := List.pairwise_cons.1 hm.1
      obtain ⟨hy, hpn⟩ := List.pairwise_cons.1 hn.1
      have ha := h a
      have hb := h b
      simp only [Memory.read?_cons, if_true] at ha hb
      have hab : a = b := by
        by_contra hne
        rw [if_neg hne] at ha
        rw [if_neg (Ne.symm hne)] at hb
        rcases Nat.lt_or_gt_of_ne hne with hlt | hlt
        · rw [below hy a hlt.le] at ha
          cases ha
        · rw [below hx b hlt.le] at hb
          cases hb
      subst hab
      simp only [if_true, Option.some.injEq] at ha
      subst ha
      congr 1
      refine ih ⟨hpm, fun z hz => hm.2 z (by simp [hz])⟩ ⟨hpn, fun z hz => hn.2 z (by simp [hz])⟩ (fun c => ?_)
      by_cases hc : c = a
      · subst hc
        rw [below hx c le_rfl, below hy c le_rfl]
      · have := h c
        simpa [Memory.read?_cons, hc] using this

end Sys2Proof.Machine
end

