-- ==== Sys2Proof/Laws/State.lean ====
section
/-! SUPPORT. The named updates of State, one lemma a field: what each writes and what it leaves. -/

namespace Sys2Proof.Machine

/-! ### `setSlots` -/

@[simp] theorem setSlots_cfg (evs : List Event) (s : State) : (setSlots evs s).cfg = s.cfg := rfl
@[simp] theorem setSlots_pos (evs : List Event) (s : State) : (setSlots evs s).pos = s.pos := rfl
@[simp] theorem setSlots_have_prev (evs : List Event) (s : State) : (setSlots evs s).have_prev = s.have_prev := rfl
@[simp] theorem setSlots_prev_neg (evs : List Event) (s : State) : (setSlots evs s).prev_neg = s.prev_neg := rfl
@[simp] theorem setSlots_cnt (evs : List Event) (s : State) : (setSlots evs s).cnt = s.cnt := rfl
@[simp] theorem setSlots_phase (evs : List Event) (s : State) : (setSlots evs s).phase = s.phase := rfl
@[simp] theorem setSlots_pilot_cnt (evs : List Event) (s : State) : (setSlots evs s).pilot_cnt = s.pilot_cnt := rfl
@[simp] theorem setSlots_bad_cnt (evs : List Event) (s : State) : (setSlots evs s).bad_cnt = s.bad_cnt := rfl
@[simp] theorem setSlots_unclass_cnt (evs : List Event) (s : State) : (setSlots evs s).unclass_cnt = s.unclass_cnt := rfl
@[simp] theorem setSlots_syn_on (evs : List Event) (s : State) : (setSlots evs s).syn_on = s.syn_on := rfl
@[simp] theorem setSlots_syn_off (evs : List Event) (s : State) : (setSlots evs s).syn_off = s.syn_off := rfl
@[simp] theorem setSlots_half_pend (evs : List Event) (s : State) : (setSlots evs s).half_pend = s.half_pend := rfl
@[simp] theorem setSlots_half_one (evs : List Event) (s : State) : (setSlots evs s).half_one = s.half_one := rfl
@[simp] theorem setSlots_bitpos (evs : List Event) (s : State) : (setSlots evs s).bitpos = s.bitpos := rfl
@[simp] theorem setSlots_sh (evs : List Event) (s : State) : (setSlots evs s).sh = s.sh := rfl
@[simp] theorem setSlots_bptr (evs : List Event) (s : State) : (setSlots evs s).bptr = s.bptr := rfl
@[simp] theorem setSlots_blen (evs : List Event) (s : State) : (setSlots evs s).blen = s.blen := rfl
@[simp] theorem setSlots_xsum (evs : List Event) (s : State) : (setSlots evs s).xsum = s.xsum := rfl
@[simp] theorem setSlots_hdr_valid (evs : List Event) (s : State) : (setSlots evs s).hdr_valid = s.hdr_valid := rfl
@[simp] theorem setSlots_hdr_type (evs : List Event) (s : State) : (setSlots evs s).hdr_type = s.hdr_type := rfl
@[simp] theorem setSlots_hdr_name (evs : List Event) (s : State) : (setSlots evs s).hdr_name = s.hdr_name := rfl
@[simp] theorem setSlots_hdr_len (evs : List Event) (s : State) : (setSlots evs s).hdr_len = s.hdr_len := rfl
@[simp] theorem setSlots_hdr_p1 (evs : List Event) (s : State) : (setSlots evs s).hdr_p1 = s.hdr_p1 := rfl
@[simp] theorem setSlots_hdr_p2 (evs : List Event) (s : State) : (setSlots evs s).hdr_p2 = s.hdr_p2 := rfl
@[simp] theorem setSlots_err_seen (evs : List Event) (s : State) : (setSlots evs s).err_seen = s.err_seen := rfl
@[simp] theorem setSlots_last_err (evs : List Event) (s : State) : (setSlots evs s).last_err = s.last_err := rfl
@[simp] theorem setSlots_err_cnt (evs : List Event) (s : State) : (setSlots evs s).err_cnt = s.err_cnt := rfl
@[simp] theorem setSlots_ill_op (evs : List Event) (s : State) : (setSlots evs s).ill_op = s.ill_op := rfl
@[simp] theorem setSlots_ev0_valid (evs : List Event) (s : State) : (setSlots evs s).ev0_valid = slotValid evs 0 := rfl
@[simp] theorem setSlots_ev0_word (evs : List Event) (s : State) : (setSlots evs s).ev0_word = slotWord evs 0 := rfl
@[simp] theorem setSlots_ev1_valid (evs : List Event) (s : State) : (setSlots evs s).ev1_valid = slotValid evs 1 := rfl
@[simp] theorem setSlots_ev1_word (evs : List Event) (s : State) : (setSlots evs s).ev1_word = slotWord evs 1 := rfl
@[simp] theorem setSlots_buf (evs : List Event) (s : State) : (setSlots evs s).buf = s.buf := rfl
@[simp] theorem setSlots_draws (evs : List Event) (s : State) : (setSlots evs s).draws = s.draws := rfl
@[simp] theorem setSlots_input (evs : List Event) (s : State) : (setSlots evs s).input = s.input := rfl

/-! ### `acqReset` -/

@[simp] theorem acqReset_cfg (s : State) : (acqReset s).cfg = s.cfg := rfl
@[simp] theorem acqReset_pos (s : State) : (acqReset s).pos = s.pos := rfl
@[simp] theorem acqReset_have_prev (s : State) : (acqReset s).have_prev = s.have_prev := rfl
@[simp] theorem acqReset_prev_neg (s : State) : (acqReset s).prev_neg = s.prev_neg := rfl
@[simp] theorem acqReset_cnt (s : State) : (acqReset s).cnt = s.cnt := rfl
@[simp] theorem acqReset_phase (s : State) : (acqReset s).phase = .searchingPilot := rfl
@[simp] theorem acqReset_pilot_cnt (s : State) : (acqReset s).pilot_cnt = 0 := rfl
@[simp] theorem acqReset_bad_cnt (s : State) : (acqReset s).bad_cnt = 0 := rfl
@[simp] theorem acqReset_unclass_cnt (s : State) : (acqReset s).unclass_cnt = 0 := rfl
@[simp] theorem acqReset_syn_on (s : State) : (acqReset s).syn_on = false := rfl
@[simp] theorem acqReset_syn_off (s : State) : (acqReset s).syn_off = false := rfl
@[simp] theorem acqReset_half_pend (s : State) : (acqReset s).half_pend = false := rfl
@[simp] theorem acqReset_half_one (s : State) : (acqReset s).half_one = false := rfl
@[simp] theorem acqReset_bitpos (s : State) : (acqReset s).bitpos = 0 := rfl
@[simp] theorem acqReset_sh (s : State) : (acqReset s).sh = 0 := rfl
@[simp] theorem acqReset_bptr (s : State) : (acqReset s).bptr = 0 := rfl
@[simp] theorem acqReset_blen (s : State) : (acqReset s).blen = 0 := rfl
@[simp] theorem acqReset_xsum (s : State) : (acqReset s).xsum = 0 := rfl
@[simp] theorem acqReset_hdr_valid (s : State) : (acqReset s).hdr_valid = s.hdr_valid := rfl
@[simp] theorem acqReset_hdr_type (s : State) : (acqReset s).hdr_type = s.hdr_type := rfl
@[simp] theorem acqReset_hdr_name (s : State) : (acqReset s).hdr_name = s.hdr_name := rfl
@[simp] theorem acqReset_hdr_len (s : State) : (acqReset s).hdr_len = s.hdr_len := rfl
@[simp] theorem acqReset_hdr_p1 (s : State) : (acqReset s).hdr_p1 = s.hdr_p1 := rfl
@[simp] theorem acqReset_hdr_p2 (s : State) : (acqReset s).hdr_p2 = s.hdr_p2 := rfl
@[simp] theorem acqReset_err_seen (s : State) : (acqReset s).err_seen = s.err_seen := rfl
@[simp] theorem acqReset_last_err (s : State) : (acqReset s).last_err = s.last_err := rfl
@[simp] theorem acqReset_err_cnt (s : State) : (acqReset s).err_cnt = s.err_cnt := rfl
@[simp] theorem acqReset_ill_op (s : State) : (acqReset s).ill_op = s.ill_op := rfl
@[simp] theorem acqReset_ev0_valid (s : State) : (acqReset s).ev0_valid = s.ev0_valid := rfl
@[simp] theorem acqReset_ev0_word (s : State) : (acqReset s).ev0_word = s.ev0_word := rfl
@[simp] theorem acqReset_ev1_valid (s : State) : (acqReset s).ev1_valid = s.ev1_valid := rfl
@[simp] theorem acqReset_ev1_word (s : State) : (acqReset s).ev1_word = s.ev1_word := rfl
@[simp] theorem acqReset_buf (s : State) : (acqReset s).buf = s.buf := rfl
@[simp] theorem acqReset_draws (s : State) : (acqReset s).draws = s.draws := rfl
@[simp] theorem acqReset_input (s : State) : (acqReset s).input = s.input := rfl

/-! ### `logError` -/

@[simp] theorem logError_cfg (e : ErrCode) (s : State) : (logError e s).cfg = s.cfg := rfl
@[simp] theorem logError_pos (e : ErrCode) (s : State) : (logError e s).pos = s.pos := rfl
@[simp] theorem logError_have_prev (e : ErrCode) (s : State) : (logError e s).have_prev = s.have_prev := rfl
@[simp] theorem logError_prev_neg (e : ErrCode) (s : State) : (logError e s).prev_neg = s.prev_neg := rfl
@[simp] theorem logError_cnt (e : ErrCode) (s : State) : (logError e s).cnt = s.cnt := rfl
@[simp] theorem logError_phase (e : ErrCode) (s : State) : (logError e s).phase = s.phase := rfl
@[simp] theorem logError_pilot_cnt (e : ErrCode) (s : State) : (logError e s).pilot_cnt = s.pilot_cnt := rfl
@[simp] theorem logError_bad_cnt (e : ErrCode) (s : State) : (logError e s).bad_cnt = s.bad_cnt := rfl
@[simp] theorem logError_unclass_cnt (e : ErrCode) (s : State) : (logError e s).unclass_cnt = s.unclass_cnt := rfl
@[simp] theorem logError_syn_on (e : ErrCode) (s : State) : (logError e s).syn_on = s.syn_on := rfl
@[simp] theorem logError_syn_off (e : ErrCode) (s : State) : (logError e s).syn_off = s.syn_off := rfl
@[simp] theorem logError_half_pend (e : ErrCode) (s : State) : (logError e s).half_pend = s.half_pend := rfl
@[simp] theorem logError_half_one (e : ErrCode) (s : State) : (logError e s).half_one = s.half_one := rfl
@[simp] theorem logError_bitpos (e : ErrCode) (s : State) : (logError e s).bitpos = s.bitpos := rfl
@[simp] theorem logError_sh (e : ErrCode) (s : State) : (logError e s).sh = s.sh := rfl
@[simp] theorem logError_bptr (e : ErrCode) (s : State) : (logError e s).bptr = s.bptr := rfl
@[simp] theorem logError_blen (e : ErrCode) (s : State) : (logError e s).blen = s.blen := rfl
@[simp] theorem logError_xsum (e : ErrCode) (s : State) : (logError e s).xsum = s.xsum := rfl
@[simp] theorem logError_hdr_valid (e : ErrCode) (s : State) : (logError e s).hdr_valid = s.hdr_valid := rfl
@[simp] theorem logError_hdr_type (e : ErrCode) (s : State) : (logError e s).hdr_type = s.hdr_type := rfl
@[simp] theorem logError_hdr_name (e : ErrCode) (s : State) : (logError e s).hdr_name = s.hdr_name := rfl
@[simp] theorem logError_hdr_len (e : ErrCode) (s : State) : (logError e s).hdr_len = s.hdr_len := rfl
@[simp] theorem logError_hdr_p1 (e : ErrCode) (s : State) : (logError e s).hdr_p1 = s.hdr_p1 := rfl
@[simp] theorem logError_hdr_p2 (e : ErrCode) (s : State) : (logError e s).hdr_p2 = s.hdr_p2 := rfl
@[simp] theorem logError_err_seen (e : ErrCode) (s : State) : (logError e s).err_seen = true := rfl
@[simp] theorem logError_last_err (e : ErrCode) (s : State) : (logError e s).last_err = errorCode e := rfl
@[simp] theorem logError_err_cnt (e : ErrCode) (s : State) : (logError e s).err_cnt = satInc16 s.err_cnt := rfl
@[simp] theorem logError_ill_op (e : ErrCode) (s : State) : (logError e s).ill_op = s.ill_op := rfl
@[simp] theorem logError_ev0_valid (e : ErrCode) (s : State) : (logError e s).ev0_valid = s.ev0_valid := rfl
@[simp] theorem logError_ev0_word (e : ErrCode) (s : State) : (logError e s).ev0_word = s.ev0_word := rfl
@[simp] theorem logError_ev1_valid (e : ErrCode) (s : State) : (logError e s).ev1_valid = s.ev1_valid := rfl
@[simp] theorem logError_ev1_word (e : ErrCode) (s : State) : (logError e s).ev1_word = s.ev1_word := rfl
@[simp] theorem logError_buf (e : ErrCode) (s : State) : (logError e s).buf = s.buf := rfl
@[simp] theorem logError_draws (e : ErrCode) (s : State) : (logError e s).draws = s.draws := rfl
@[simp] theorem logError_input (e : ErrCode) (s : State) : (logError e s).input = s.input := rfl

/-! ### `resetRegisters` -/

@[simp] theorem resetRegisters_cfg (s : State) : (resetRegisters s).cfg = s.cfg := rfl
@[simp] theorem resetRegisters_pos (s : State) : (resetRegisters s).pos = 0 := rfl
@[simp] theorem resetRegisters_have_prev (s : State) : (resetRegisters s).have_prev = false := rfl
@[simp] theorem resetRegisters_prev_neg (s : State) : (resetRegisters s).prev_neg = false := rfl
@[simp] theorem resetRegisters_cnt (s : State) : (resetRegisters s).cnt = 0 := rfl
@[simp] theorem resetRegisters_phase (s : State) : (resetRegisters s).phase = .searchingPilot := rfl
@[simp] theorem resetRegisters_pilot_cnt (s : State) : (resetRegisters s).pilot_cnt = 0 := rfl
@[simp] theorem resetRegisters_bad_cnt (s : State) : (resetRegisters s).bad_cnt = 0 := rfl
@[simp] theorem resetRegisters_unclass_cnt (s : State) : (resetRegisters s).unclass_cnt = 0 := rfl
@[simp] theorem resetRegisters_syn_on (s : State) : (resetRegisters s).syn_on = false := rfl
@[simp] theorem resetRegisters_syn_off (s : State) : (resetRegisters s).syn_off = false := rfl
@[simp] theorem resetRegisters_half_pend (s : State) : (resetRegisters s).half_pend = false := rfl
@[simp] theorem resetRegisters_half_one (s : State) : (resetRegisters s).half_one = false := rfl
@[simp] theorem resetRegisters_bitpos (s : State) : (resetRegisters s).bitpos = 0 := rfl
@[simp] theorem resetRegisters_sh (s : State) : (resetRegisters s).sh = 0 := rfl
@[simp] theorem resetRegisters_bptr (s : State) : (resetRegisters s).bptr = 0 := rfl
@[simp] theorem resetRegisters_blen (s : State) : (resetRegisters s).blen = 0 := rfl
@[simp] theorem resetRegisters_xsum (s : State) : (resetRegisters s).xsum = 0 := rfl
@[simp] theorem resetRegisters_hdr_valid (s : State) : (resetRegisters s).hdr_valid = false := rfl
@[simp] theorem resetRegisters_hdr_type (s : State) : (resetRegisters s).hdr_type = 0 := rfl
@[simp] theorem resetRegisters_hdr_name (s : State) : (resetRegisters s).hdr_name = #v[0, 0, 0, 0, 0, 0, 0, 0, 0, 0] := rfl
@[simp] theorem resetRegisters_hdr_len (s : State) : (resetRegisters s).hdr_len = 0 := rfl
@[simp] theorem resetRegisters_hdr_p1 (s : State) : (resetRegisters s).hdr_p1 = 0 := rfl
@[simp] theorem resetRegisters_hdr_p2 (s : State) : (resetRegisters s).hdr_p2 = 0 := rfl
@[simp] theorem resetRegisters_err_seen (s : State) : (resetRegisters s).err_seen = false := rfl
@[simp] theorem resetRegisters_last_err (s : State) : (resetRegisters s).last_err = 0 := rfl
@[simp] theorem resetRegisters_err_cnt (s : State) : (resetRegisters s).err_cnt = 0 := rfl
@[simp] theorem resetRegisters_ill_op (s : State) : (resetRegisters s).ill_op = false := rfl
@[simp] theorem resetRegisters_ev0_valid (s : State) : (resetRegisters s).ev0_valid = false := rfl
@[simp] theorem resetRegisters_ev0_word (s : State) : (resetRegisters s).ev0_word = 0 := rfl
@[simp] theorem resetRegisters_ev1_valid (s : State) : (resetRegisters s).ev1_valid = false := rfl
@[simp] theorem resetRegisters_ev1_word (s : State) : (resetRegisters s).ev1_word = 0 := rfl
@[simp] theorem resetRegisters_buf (s : State) : (resetRegisters s).buf = s.buf := rfl
@[simp] theorem resetRegisters_draws (s : State) : (resetRegisters s).draws = s.draws := rfl
@[simp] theorem resetRegisters_input (s : State) : (resetRegisters s).input = s.input := rfl

/-! ### `applyRst` -/

@[simp] theorem applyRst_cfg (s : State) : (applyRst s).cfg = s.cfg := rfl
@[simp] theorem applyRst_pos (s : State) : (applyRst s).pos = 0 := rfl
@[simp] theorem applyRst_have_prev (s : State) : (applyRst s).have_prev = false := rfl
@[simp] theorem applyRst_prev_neg (s : State) : (applyRst s).prev_neg = false := rfl
@[simp] theorem applyRst_cnt (s : State) : (applyRst s).cnt = 0 := rfl
@[simp] theorem applyRst_phase (s : State) : (applyRst s).phase = .searchingPilot := rfl
@[simp] theorem applyRst_pilot_cnt (s : State) : (applyRst s).pilot_cnt = 0 := rfl
@[simp] theorem applyRst_bad_cnt (s : State) : (applyRst s).bad_cnt = 0 := rfl
@[simp] theorem applyRst_unclass_cnt (s : State) : (applyRst s).unclass_cnt = 0 := rfl
@[simp] theorem applyRst_syn_on (s : State) : (applyRst s).syn_on = false := rfl
@[simp] theorem applyRst_syn_off (s : State) : (applyRst s).syn_off = false := rfl
@[simp] theorem applyRst_half_pend (s : State) : (applyRst s).half_pend = false := rfl
@[simp] theorem applyRst_half_one (s : State) : (applyRst s).half_one = false := rfl
@[simp] theorem applyRst_bitpos (s : State) : (applyRst s).bitpos = 0 := rfl
@[simp] theorem applyRst_sh (s : State) : (applyRst s).sh = 0 := rfl
@[simp] theorem applyRst_bptr (s : State) : (applyRst s).bptr = 0 := rfl
@[simp] theorem applyRst_blen (s : State) : (applyRst s).blen = 0 := rfl
@[simp] theorem applyRst_xsum (s : State) : (applyRst s).xsum = 0 := rfl
@[simp] theorem applyRst_hdr_valid (s : State) : (applyRst s).hdr_valid = false := rfl
@[simp] theorem applyRst_hdr_type (s : State) : (applyRst s).hdr_type = 0 := rfl
@[simp] theorem applyRst_hdr_name (s : State) : (applyRst s).hdr_name = #v[0, 0, 0, 0, 0, 0, 0, 0, 0, 0] := rfl
@[simp] theorem applyRst_hdr_len (s : State) : (applyRst s).hdr_len = 0 := rfl
@[simp] theorem applyRst_hdr_p1 (s : State) : (applyRst s).hdr_p1 = 0 := rfl
@[simp] theorem applyRst_hdr_p2 (s : State) : (applyRst s).hdr_p2 = 0 := rfl
@[simp] theorem applyRst_err_seen (s : State) : (applyRst s).err_seen = false := rfl
@[simp] theorem applyRst_last_err (s : State) : (applyRst s).last_err = 0 := rfl
@[simp] theorem applyRst_err_cnt (s : State) : (applyRst s).err_cnt = 0 := rfl
@[simp] theorem applyRst_ill_op (s : State) : (applyRst s).ill_op = false := rfl
@[simp] theorem applyRst_ev0_valid (s : State) : (applyRst s).ev0_valid = false := rfl
@[simp] theorem applyRst_ev0_word (s : State) : (applyRst s).ev0_word = 0 := rfl
@[simp] theorem applyRst_ev1_valid (s : State) : (applyRst s).ev1_valid = false := rfl
@[simp] theorem applyRst_ev1_word (s : State) : (applyRst s).ev1_word = 0 := rfl
@[simp] theorem applyRst_buf (s : State) : (applyRst s).buf = [] := rfl
@[simp] theorem applyRst_draws (s : State) : (applyRst s).draws = s.draws := rfl
@[simp] theorem applyRst_input (s : State) : (applyRst s).input = s.input := rfl

/-! ### `advance` -/

@[simp] theorem advance_cfg (s : State) : (advance s).cfg = s.cfg := rfl
@[simp] theorem advance_pos (s : State) : (advance s).pos = s.pos + 1 := rfl
@[simp] theorem advance_have_prev (s : State) : (advance s).have_prev = s.have_prev := rfl
@[simp] theorem advance_prev_neg (s : State) : (advance s).prev_neg = s.prev_neg := rfl
@[simp] theorem advance_cnt (s : State) : (advance s).cnt = s.cnt := rfl
@[simp] theorem advance_phase (s : State) : (advance s).phase = s.phase := rfl
@[simp] theorem advance_pilot_cnt (s : State) : (advance s).pilot_cnt = s.pilot_cnt := rfl
@[simp] theorem advance_bad_cnt (s : State) : (advance s).bad_cnt = s.bad_cnt := rfl
@[simp] theorem advance_unclass_cnt (s : State) : (advance s).unclass_cnt = s.unclass_cnt := rfl
@[simp] theorem advance_syn_on (s : State) : (advance s).syn_on = s.syn_on := rfl
@[simp] theorem advance_syn_off (s : State) : (advance s).syn_off = s.syn_off := rfl
@[simp] theorem advance_half_pend (s : State) : (advance s).half_pend = s.half_pend := rfl
@[simp] theorem advance_half_one (s : State) : (advance s).half_one = s.half_one := rfl
@[simp] theorem advance_bitpos (s : State) : (advance s).bitpos = s.bitpos := rfl
@[simp] theorem advance_sh (s : State) : (advance s).sh = s.sh := rfl
@[simp] theorem advance_bptr (s : State) : (advance s).bptr = s.bptr := rfl
@[simp] theorem advance_blen (s : State) : (advance s).blen = s.blen := rfl
@[simp] theorem advance_xsum (s : State) : (advance s).xsum = s.xsum := rfl
@[simp] theorem advance_hdr_valid (s : State) : (advance s).hdr_valid = s.hdr_valid := rfl
@[simp] theorem advance_hdr_type (s : State) : (advance s).hdr_type = s.hdr_type := rfl
@[simp] theorem advance_hdr_name (s : State) : (advance s).hdr_name = s.hdr_name := rfl
@[simp] theorem advance_hdr_len (s : State) : (advance s).hdr_len = s.hdr_len := rfl
@[simp] theorem advance_hdr_p1 (s : State) : (advance s).hdr_p1 = s.hdr_p1 := rfl
@[simp] theorem advance_hdr_p2 (s : State) : (advance s).hdr_p2 = s.hdr_p2 := rfl
@[simp] theorem advance_err_seen (s : State) : (advance s).err_seen = s.err_seen := rfl
@[simp] theorem advance_last_err (s : State) : (advance s).last_err = s.last_err := rfl
@[simp] theorem advance_err_cnt (s : State) : (advance s).err_cnt = s.err_cnt := rfl
@[simp] theorem advance_ill_op (s : State) : (advance s).ill_op = s.ill_op := rfl
@[simp] theorem advance_ev0_valid (s : State) : (advance s).ev0_valid = s.ev0_valid := rfl
@[simp] theorem advance_ev0_word (s : State) : (advance s).ev0_word = s.ev0_word := rfl
@[simp] theorem advance_ev1_valid (s : State) : (advance s).ev1_valid = s.ev1_valid := rfl
@[simp] theorem advance_ev1_word (s : State) : (advance s).ev1_word = s.ev1_word := rfl
@[simp] theorem advance_buf (s : State) : (advance s).buf = s.buf := rfl
@[simp] theorem advance_draws (s : State) : (advance s).draws = s.draws := rfl
@[simp] theorem advance_input (s : State) : (advance s).input = s.input := rfl

/-! ### `startPulse` -/

@[simp] theorem startPulse_cfg (v : Int) (s : State) : (startPulse v s).cfg = s.cfg := rfl
@[simp] theorem startPulse_pos (v : Int) (s : State) : (startPulse v s).pos = s.pos := rfl
@[simp] theorem startPulse_have_prev (v : Int) (s : State) : (startPulse v s).have_prev = true := rfl
@[simp] theorem startPulse_prev_neg (v : Int) (s : State) : (startPulse v s).prev_neg = sampleNeg v := rfl
@[simp] theorem startPulse_cnt (v : Int) (s : State) : (startPulse v s).cnt = 1 := rfl
@[simp] theorem startPulse_phase (v : Int) (s : State) : (startPulse v s).phase = s.phase := rfl
@[simp] theorem startPulse_pilot_cnt (v : Int) (s : State) : (startPulse v s).pilot_cnt = s.pilot_cnt := rfl
@[simp] theorem startPulse_bad_cnt (v : Int) (s : State) : (startPulse v s).bad_cnt = s.bad_cnt := rfl
@[simp] theorem startPulse_unclass_cnt (v : Int) (s : State) : (startPulse v s).unclass_cnt = s.unclass_cnt := rfl
@[simp] theorem startPulse_syn_on (v : Int) (s : State) : (startPulse v s).syn_on = s.syn_on := rfl
@[simp] theorem startPulse_syn_off (v : Int) (s : State) : (startPulse v s).syn_off = s.syn_off := rfl
@[simp] theorem startPulse_half_pend (v : Int) (s : State) : (startPulse v s).half_pend = s.half_pend := rfl
@[simp] theorem startPulse_half_one (v : Int) (s : State) : (startPulse v s).half_one = s.half_one := rfl
@[simp] theorem startPulse_bitpos (v : Int) (s : State) : (startPulse v s).bitpos = s.bitpos := rfl
@[simp] theorem startPulse_sh (v : Int) (s : State) : (startPulse v s).sh = s.sh := rfl
@[simp] theorem startPulse_bptr (v : Int) (s : State) : (startPulse v s).bptr = s.bptr := rfl
@[simp] theorem startPulse_blen (v : Int) (s : State) : (startPulse v s).blen = s.blen := rfl
@[simp] theorem startPulse_xsum (v : Int) (s : State) : (startPulse v s).xsum = s.xsum := rfl
@[simp] theorem startPulse_hdr_valid (v : Int) (s : State) : (startPulse v s).hdr_valid = s.hdr_valid := rfl
@[simp] theorem startPulse_hdr_type (v : Int) (s : State) : (startPulse v s).hdr_type = s.hdr_type := rfl
@[simp] theorem startPulse_hdr_name (v : Int) (s : State) : (startPulse v s).hdr_name = s.hdr_name := rfl
@[simp] theorem startPulse_hdr_len (v : Int) (s : State) : (startPulse v s).hdr_len = s.hdr_len := rfl
@[simp] theorem startPulse_hdr_p1 (v : Int) (s : State) : (startPulse v s).hdr_p1 = s.hdr_p1 := rfl
@[simp] theorem startPulse_hdr_p2 (v : Int) (s : State) : (startPulse v s).hdr_p2 = s.hdr_p2 := rfl
@[simp] theorem startPulse_err_seen (v : Int) (s : State) : (startPulse v s).err_seen = s.err_seen := rfl
@[simp] theorem startPulse_last_err (v : Int) (s : State) : (startPulse v s).last_err = s.last_err := rfl
@[simp] theorem startPulse_err_cnt (v : Int) (s : State) : (startPulse v s).err_cnt = s.err_cnt := rfl
@[simp] theorem startPulse_ill_op (v : Int) (s : State) : (startPulse v s).ill_op = s.ill_op := rfl
@[simp] theorem startPulse_ev0_valid (v : Int) (s : State) : (startPulse v s).ev0_valid = s.ev0_valid := rfl
@[simp] theorem startPulse_ev0_word (v : Int) (s : State) : (startPulse v s).ev0_word = s.ev0_word := rfl
@[simp] theorem startPulse_ev1_valid (v : Int) (s : State) : (startPulse v s).ev1_valid = s.ev1_valid := rfl
@[simp] theorem startPulse_ev1_word (v : Int) (s : State) : (startPulse v s).ev1_word = s.ev1_word := rfl
@[simp] theorem startPulse_buf (v : Int) (s : State) : (startPulse v s).buf = s.buf := rfl
@[simp] theorem startPulse_draws (v : Int) (s : State) : (startPulse v s).draws = s.draws := rfl
@[simp] theorem startPulse_input (v : Int) (s : State) : (startPulse v s).input = s.input := rfl

/-! ### `startBlock` -/

@[simp] theorem startBlock_cfg (s : State) : (startBlock s).cfg = s.cfg := rfl
@[simp] theorem startBlock_pos (s : State) : (startBlock s).pos = s.pos := rfl
@[simp] theorem startBlock_have_prev (s : State) : (startBlock s).have_prev = s.have_prev := rfl
@[simp] theorem startBlock_prev_neg (s : State) : (startBlock s).prev_neg = s.prev_neg := rfl
@[simp] theorem startBlock_cnt (s : State) : (startBlock s).cnt = s.cnt := rfl
@[simp] theorem startBlock_phase (s : State) : (startBlock s).phase = if s.hdr_valid then .readingData else .readingHeader := rfl
@[simp] theorem startBlock_pilot_cnt (s : State) : (startBlock s).pilot_cnt = s.pilot_cnt := rfl
@[simp] theorem startBlock_bad_cnt (s : State) : (startBlock s).bad_cnt = s.bad_cnt := rfl
@[simp] theorem startBlock_unclass_cnt (s : State) : (startBlock s).unclass_cnt = 0 := rfl
@[simp] theorem startBlock_syn_on (s : State) : (startBlock s).syn_on = s.syn_on := rfl
@[simp] theorem startBlock_syn_off (s : State) : (startBlock s).syn_off = true := rfl
@[simp] theorem startBlock_half_pend (s : State) : (startBlock s).half_pend = false := rfl
@[simp] theorem startBlock_half_one (s : State) : (startBlock s).half_one = false := rfl
@[simp] theorem startBlock_bitpos (s : State) : (startBlock s).bitpos = 0 := rfl
@[simp] theorem startBlock_sh (s : State) : (startBlock s).sh = 0 := rfl
@[simp] theorem startBlock_bptr (s : State) : (startBlock s).bptr = 0 := rfl
@[simp] theorem startBlock_blen (s : State) : (startBlock s).blen = 0 := rfl
@[simp] theorem startBlock_xsum (s : State) : (startBlock s).xsum = 0 := rfl
@[simp] theorem startBlock_hdr_valid (s : State) : (startBlock s).hdr_valid = s.hdr_valid := rfl
@[simp] theorem startBlock_hdr_type (s : State) : (startBlock s).hdr_type = s.hdr_type := rfl
@[simp] theorem startBlock_hdr_name (s : State) : (startBlock s).hdr_name = s.hdr_name := rfl
@[simp] theorem startBlock_hdr_len (s : State) : (startBlock s).hdr_len = s.hdr_len := rfl
@[simp] theorem startBlock_hdr_p1 (s : State) : (startBlock s).hdr_p1 = s.hdr_p1 := rfl
@[simp] theorem startBlock_hdr_p2 (s : State) : (startBlock s).hdr_p2 = s.hdr_p2 := rfl
@[simp] theorem startBlock_err_seen (s : State) : (startBlock s).err_seen = s.err_seen := rfl
@[simp] theorem startBlock_last_err (s : State) : (startBlock s).last_err = s.last_err := rfl
@[simp] theorem startBlock_err_cnt (s : State) : (startBlock s).err_cnt = s.err_cnt := rfl
@[simp] theorem startBlock_ill_op (s : State) : (startBlock s).ill_op = s.ill_op := rfl
@[simp] theorem startBlock_ev0_valid (s : State) : (startBlock s).ev0_valid = s.ev0_valid := rfl
@[simp] theorem startBlock_ev0_word (s : State) : (startBlock s).ev0_word = s.ev0_word := rfl
@[simp] theorem startBlock_ev1_valid (s : State) : (startBlock s).ev1_valid = s.ev1_valid := rfl
@[simp] theorem startBlock_ev1_word (s : State) : (startBlock s).ev1_word = s.ev1_word := rfl
@[simp] theorem startBlock_buf (s : State) : (startBlock s).buf = s.buf := rfl
@[simp] theorem startBlock_draws (s : State) : (startBlock s).draws = s.draws := rfl
@[simp] theorem startBlock_input (s : State) : (startBlock s).input = s.input := rfl

/-! ### `countByte` -/

@[simp] theorem countByte_cfg (v : Byte) (s : State) : (countByte v s).cfg = s.cfg := rfl
@[simp] theorem countByte_pos (v : Byte) (s : State) : (countByte v s).pos = s.pos := rfl
@[simp] theorem countByte_have_prev (v : Byte) (s : State) : (countByte v s).have_prev = s.have_prev := rfl
@[simp] theorem countByte_prev_neg (v : Byte) (s : State) : (countByte v s).prev_neg = s.prev_neg := rfl
@[simp] theorem countByte_cnt (v : Byte) (s : State) : (countByte v s).cnt = s.cnt := rfl
@[simp] theorem countByte_phase (v : Byte) (s : State) : (countByte v s).phase = s.phase := rfl
@[simp] theorem countByte_pilot_cnt (v : Byte) (s : State) : (countByte v s).pilot_cnt = s.pilot_cnt := rfl
@[simp] theorem countByte_bad_cnt (v : Byte) (s : State) : (countByte v s).bad_cnt = s.bad_cnt := rfl
@[simp] theorem countByte_unclass_cnt (v : Byte) (s : State) : (countByte v s).unclass_cnt = s.unclass_cnt := rfl
@[simp] theorem countByte_syn_on (v : Byte) (s : State) : (countByte v s).syn_on = s.syn_on := rfl
@[simp] theorem countByte_syn_off (v : Byte) (s : State) : (countByte v s).syn_off = s.syn_off := rfl
@[simp] theorem countByte_half_pend (v : Byte) (s : State) : (countByte v s).half_pend = s.half_pend := rfl
@[simp] theorem countByte_half_one (v : Byte) (s : State) : (countByte v s).half_one = s.half_one := rfl
@[simp] theorem countByte_bitpos (v : Byte) (s : State) : (countByte v s).bitpos = s.bitpos := rfl
@[simp] theorem countByte_sh (v : Byte) (s : State) : (countByte v s).sh = s.sh := rfl
@[simp] theorem countByte_bptr (v : Byte) (s : State) : (countByte v s).bptr = s.bptr + 1 := rfl
@[simp] theorem countByte_blen (v : Byte) (s : State) : (countByte v s).blen = s.blen := rfl
@[simp] theorem countByte_xsum (v : Byte) (s : State) : (countByte v s).xsum = s.xsum ^^^ v := rfl
@[simp] theorem countByte_hdr_valid (v : Byte) (s : State) : (countByte v s).hdr_valid = s.hdr_valid := rfl
@[simp] theorem countByte_hdr_type (v : Byte) (s : State) : (countByte v s).hdr_type = s.hdr_type := rfl
@[simp] theorem countByte_hdr_name (v : Byte) (s : State) : (countByte v s).hdr_name = s.hdr_name := rfl
@[simp] theorem countByte_hdr_len (v : Byte) (s : State) : (countByte v s).hdr_len = s.hdr_len := rfl
@[simp] theorem countByte_hdr_p1 (v : Byte) (s : State) : (countByte v s).hdr_p1 = s.hdr_p1 := rfl
@[simp] theorem countByte_hdr_p2 (v : Byte) (s : State) : (countByte v s).hdr_p2 = s.hdr_p2 := rfl
@[simp] theorem countByte_err_seen (v : Byte) (s : State) : (countByte v s).err_seen = s.err_seen := rfl
@[simp] theorem countByte_last_err (v : Byte) (s : State) : (countByte v s).last_err = s.last_err := rfl
@[simp] theorem countByte_err_cnt (v : Byte) (s : State) : (countByte v s).err_cnt = s.err_cnt := rfl
@[simp] theorem countByte_ill_op (v : Byte) (s : State) : (countByte v s).ill_op = s.ill_op := rfl
@[simp] theorem countByte_ev0_valid (v : Byte) (s : State) : (countByte v s).ev0_valid = s.ev0_valid := rfl
@[simp] theorem countByte_ev0_word (v : Byte) (s : State) : (countByte v s).ev0_word = s.ev0_word := rfl
@[simp] theorem countByte_ev1_valid (v : Byte) (s : State) : (countByte v s).ev1_valid = s.ev1_valid := rfl
@[simp] theorem countByte_ev1_word (v : Byte) (s : State) : (countByte v s).ev1_word = s.ev1_word := rfl
@[simp] theorem countByte_buf (v : Byte) (s : State) : (countByte v s).buf = s.buf := rfl
@[simp] theorem countByte_draws (v : Byte) (s : State) : (countByte v s).draws = s.draws := rfl
@[simp] theorem countByte_input (v : Byte) (s : State) : (countByte v s).input = s.input := rfl

end Sys2Proof.Machine
end

