-- ==== Sys2Proof/Laws/Ops.lean ====
section
/-! SUPPORT. One lemma for each shared operation: everything it can do. Later proofs cite these and do not unfold the
operation again. -/

namespace Sys2Proof.Machine

open Sys2Proof.Config

/-! ### Counters -/

@[simp] theorem satInc16_toNat (x : BitVec 16) : (satInc16 x).toNat = min (x.toNat + 1) 65535 := by
  have := x.isLt
  simp only [satInc16, BitVec.toNat_ofNat]
  omega

theorem satInc16_ne_zero (x : BitVec 16) : satInc16 x ≠ 0 := by
  intro h
  have := congrArg BitVec.toNat h
  simp at this

theorem cntInc_le (c : Cfg) (n : Nat) : cntInc c n ≤ cntMax c := Nat.min_le_right _ _

theorem errorCode_toNat_le (e : ErrCode) : (errorCode e).toNat ≤ 4 := by cases e <;> decide

theorem phaseCode_toNat_le (p : Phase) : (phaseCode p).toNat ≤ 5 := by cases p <;> decide

/-! ### Event slots -/

@[simp] theorem slotValid_nil (k : Nat) : slotValid [] k = false := by simp [slotValid]
@[simp] theorem slotWord_nil (k : Nat) : slotWord [] k = 0 := by simp [slotWord]
@[simp] theorem slotValid_zero (e : Event) (evs : List Event) : slotValid (e :: evs) 0 = true := by simp [slotValid]
@[simp] theorem slotWord_zero (e : Event) (evs : List Event) : slotWord (e :: evs) 0 = eventWord e := by simp [slotWord]
@[simp] theorem slotValid_succ (e : Event) (evs : List Event) (k : Nat) :
    slotValid (e :: evs) (k + 1) = slotValid evs k := by simp [slotValid]
@[simp] theorem slotWord_succ (e : Event) (evs : List Event) (k : Nat) :
    slotWord (e :: evs) (k + 1) = slotWord evs k := by simp [slotWord]

@[simp] theorem slotValid_one (e : Event) (evs : List Event) : slotValid (e :: evs) 1 = slotValid evs 0 :=
  slotValid_succ e evs 0
@[simp] theorem slotWord_one (e : Event) (evs : List Event) : slotWord (e :: evs) 1 = slotWord evs 0 :=
  slotWord_succ e evs 0

/-- An invalid slot's word is 0 (30_encoding.md R97). -/
theorem slotWord_of_invalid (evs : List Event) (k : Nat) (h : slotValid evs k = false) : slotWord evs k = 0 := by
  simp only [slotValid] at h
  cases hk : evs[k]? with
  | none => simp [slotWord, hk]
  | some e => simp [hk] at h

/-- A valid second slot has a valid first (30_encoding.md R97). -/
theorem slotValid_zero_of_one (evs : List Event) (h : slotValid evs 1 = true) : slotValid evs 0 = true := by
  cases evs with
  | nil => simp at h
  | cons e evs => simp

/-! ### The buffer -/

/-- A write succeeds exactly on an entry of the buffer, and changes the buffer alone. -/
theorem writeEntry_ok_iff (i : Nat) (v : Byte) (s t : State) :
    writeEntry i v s = .ok t ↔ i < bufDepth ∧ t = { s with buf := s.buf.write i v } := by
  unfold writeEntry
  split
  · rename_i h
    simp [h, eq_comm]
  · rename_i h
    simp [h]

theorem readEntry_of_read? {draw : Nat} {s : State} {i : Nat} {v : Byte} (h : s.buf.read? i = some v) :
    readEntry draw s i = v := by simp [readEntry, h]

/-! ### Closing a step -/

theorem finish_next_iff (w : Work) (t : State) :
    finish w = .next t ↔ ∃ s evs, w = .ok (s, evs) ∧ t = setSlots evs s := by
  cases w with
  | error f => simp [finish]
  | ok r =>
    obtain ⟨s, evs⟩ := r
    constructor
    · intro h
      exact ⟨s, evs, rfl, by simpa [finish] using h.symm⟩
    · rintro ⟨s', evs', h, rfl⟩
      cases h
      rfl

theorem finish_fault_iff (w : Work) (f : Fault) : finish w = .fault f ↔ w = .error f := by
  cases w <;> simp [finish]

theorem finish_ne_refused (w : Work) (r : Refusal) : finish w ≠ .refused r := by
  cases w <;> simp [finish]

/-! ### The error procedure -/

theorem raise_fst (e : ErrCode) (s : State) : (raise e s).1 = acqReset (logError e s) := rfl

theorem raise_snd (e : ErrCode) (s : State) : (raise e s).2 = [.error e] := rfl

/-- Silence does nothing but clear the pilot count, or raise one of two errors, by phase (60_exceptions.md R306). -/
theorem protocolSilence_cases (s : State) :
    (s.phase = .searchingPilot ∧ protocolSilence s = ({ s with pilot_cnt := 0, bad_cnt := 0 }, [])) ∨
    (s.phase ≠ .searchingPilot ∧ s.phase ≠ .complete ∧
      (protocolSilence s = raise .prematureEnd s ∨
        s.half_pend = true ∧ protocolSilence s = raise .missingPulsePair s)) ∨
    (s.phase = .complete ∧ protocolSilence s = (s, [])) := by
  cases h : s.phase <;> cases hp : s.half_pend <;> simp [protocolSilence, h, hp]

/-- An unaccepted pulse is discarded and counted, or raises UnclassifiablePulse (60_exceptions.md R307). -/
theorem unaccepted_cases (s : State) :
    (s.unclass_cnt.toNat < s.cfg.UNCLASS_TOL ∧
      unaccepted s = ({ s with unclass_cnt := s.unclass_cnt + 1 }, [])) ∨
    (s.cfg.UNCLASS_TOL ≤ s.unclass_cnt.toNat ∧ unaccepted s = raise .unclassifiablePulse s) := by
  unfold unaccepted
  split
  · rename_i h
    exact .inl ⟨h, rfl⟩
  · rename_i h
    exact .inr ⟨Nat.le_of_not_lt h, rfl⟩

/-! ### The edge detector -/

/-- The four cases of the edge detector (41_edge_detector.md R141, R142, R144, R145). -/
theorem edgeDetect_cases (v : Int) (s : State) :
    (isEdge v s = false ∧ edgeDetect v s = countSample s) ∨
    (gated s.cfg v = false ∧ s.have_prev = false ∧
      edgeDetect v s = { st := startPulse v s, pulse := none, silence := false }) ∨
    (isEdge v s = true ∧ edgeDetect v s = { st := startPulse v s, pulse := some s.cnt, silence := false }) := by
  unfold edgeDetect isEdge
  cases hg : gated s.cfg v <;> cases hp : s.have_prev <;> cases hs : (sampleNeg v != s.prev_neg) <;> simp

/-- Silence is due where `cnt` stands at `SILENCE_CYCLE` and is not yet at its top (41_edge_detector.md R147). -/
theorem silenceDue_iff (s : State) :
    silenceDue s = true ↔ s.cnt = s.cfg.SILENCE_CYCLE ∧ s.cfg.SILENCE_CYCLE + 1 ≤ cntMax s.cfg := by
  rw [silenceDue, decide_eq_true_iff, cntInc]
  omega

/-- The count on the sample that declares silence (41_edge_detector.md R147). -/
theorem cntInc_of_silenceDue {s : State} (h : silenceDue s = true) :
    cntInc s.cfg s.cnt = s.cfg.SILENCE_CYCLE + 1 := by
  have ⟨hc, hm⟩ := (silenceDue_iff s).1 h
  simp only [cntInc]
  omega

/-- Above `SILENCE_CYCLE` silence is never due, so an edge-free, seed-free stretch declares it at most once: `cnt` does not
fall in it (41_edge_detector.md R147). -/
theorem silenceDue_of_lt {s : State} (h : s.cfg.SILENCE_CYCLE < s.cnt) : silenceDue s = false :=
  Bool.eq_false_iff.2 fun hd => by have := (silenceDue_iff s).1 hd; omega

/-- A sample with no edge is counted; silence is declared, and the detector re-armed, when it is due
(41_edge_detector.md R147). -/
theorem countSample_cases (s : State) :
    (silenceDue s = true ∧
      countSample s = { st := { s with cnt := cntInc s.cfg s.cnt, have_prev := false }, pulse := none, silence := true }) ∨
    (silenceDue s = false ∧
      countSample s = { st := { s with cnt := cntInc s.cfg s.cnt }, pulse := none, silence := false }) := by
  unfold countSample
  cases h : silenceDue s
  · exact .inr ⟨rfl, rfl⟩
  · exact .inl ⟨rfl, rfl⟩

/-! ### The phases -/

/-- SEARCHING_PILOT, PILOT pulse: lock, or count (43_pilot_sync.md R181, R184). -/
theorem pilotPulse_cases (s : State) :
    (lockThreshold s ≤ (satInc16 s.pilot_cnt).toNat ∧ pilotPulse s =
      ({ s with pilot_cnt := satInc16 s.pilot_cnt, phase := .pilotLocked, bad_cnt := 0 }, [.pilotLocked])) ∨
    ((satInc16 s.pilot_cnt).toNat < lockThreshold s ∧
      pilotPulse s = ({ s with pilot_cnt := satInc16 s.pilot_cnt }, [])) := by
  unfold pilotPulse
  by_cases h : lockThreshold s ≤ (satInc16 s.pilot_cnt).toNat
  · exact .inl ⟨h, if_pos h⟩
  · exact .inr ⟨Nat.lt_of_not_le h, if_neg h⟩

/-- SEARCHING_PILOT, any other pulse: nothing, a restart of the count, or a bad pulse counted (43_pilot_sync.md
R183). -/
theorem badPulse_cases (s : State) :
    (s.pilot_cnt = 0 ∧ badPulse s = s) ∨
    (s.pilot_cnt ≠ 0 ∧ badBudget s.cfg < (s.bad_cnt + 1).toNat ∧
      badPulse s = { s with pilot_cnt := 0, bad_cnt := 0 }) ∨
    (s.pilot_cnt ≠ 0 ∧ (s.bad_cnt + 1).toNat ≤ badBudget s.cfg ∧
      badPulse s = { s with bad_cnt := s.bad_cnt + 1 }) := by
  unfold badPulse
  by_cases h0 : s.pilot_cnt = 0
  · exact .inl ⟨h0, if_pos h0⟩
  · by_cases hb : badBudget s.cfg < (s.bad_cnt + 1).toNat
    · exact .inr (.inl ⟨h0, hb, by simp only [if_neg h0, if_pos hb]⟩)
    · exact .inr (.inr ⟨h0, Nat.le_of_not_lt hb, by simp only [if_neg h0, if_neg hb]⟩)

/-- PILOT_LOCKED: the tone goes on, SYN_ON, or an unaccepted pulse (43_pilot_sync.md R186 to R188). -/
theorem pilotLocked_cases (C : ClassVector) (s : State) :
    (hasCategory C .pilot = true ∧
      pilotLocked C s = ({ s with pilot_cnt := satInc16 s.pilot_cnt, unclass_cnt := 0 }, [])) ∨
    (hasCategory C .pilot = false ∧ hasCategory C .synOn = true ∧
      pilotLocked C s = ({ s with syn_on := true, phase := .synWait, unclass_cnt := 0 }, [])) ∨
    (hasCategory C .pilot = false ∧ hasCategory C .synOn = false ∧ pilotLocked C s = unaccepted s) := by
  unfold pilotLocked
  cases hasCategory C .pilot <;> cases hasCategory C .synOn <;> simp

/-- SYN_WAIT: the block starts, or an unaccepted pulse (43_pilot_sync.md R190, R191). -/
theorem synWait_cases (C : ClassVector) (s : State) :
    (hasCategory C .synOff = true ∧ synWait C s = (startBlock s, [])) ∨
    (hasCategory C .synOff = false ∧ synWait C s = unaccepted s) := by
  unfold synWait
  cases hasCategory C .synOff <;> simp

/-! ### The block -/

/-- The end-of-block test: the block goes on, fails its checksum, or is done (45_block_checksum.md R241, R247 to
R250). -/
theorem blockEnd_cases (s : State) :
    (s.bptr ≠ s.blen ∧ blockEnd s = (s, [])) ∨
    (s.bptr = s.blen ∧ s.xsum ≠ 0 ∧ blockEnd s = raise .checksumMismatch s) ∨
    (s.bptr = s.blen ∧ s.xsum = 0 ∧ s.phase = .readingHeader ∧ blockEnd s = headerDone s) ∨
    (s.bptr = s.blen ∧ s.xsum = 0 ∧ s.phase ≠ .readingHeader ∧ blockEnd s = dataDone s) := by
  unfold blockEnd
  by_cases hb : s.bptr = s.blen
  · by_cases hx : s.xsum = 0
    · by_cases hp : s.phase = .readingHeader
      · exact .inr (.inr (.inl ⟨hb, hx, hp, by rw [if_pos hb, if_neg (not_not.2 hx), if_pos hp]⟩))
      · exact .inr (.inr (.inr ⟨hb, hx, hp, by rw [if_pos hb, if_neg (not_not.2 hx), if_neg hp]⟩))
    · exact .inr (.inl ⟨hb, hx, by rw [if_pos hb, if_pos hx]⟩)
  · exact .inl ⟨hb, if_neg hb⟩

/-- A byte's block rule: the type byte frames the block or is refused; any other byte goes to the end-of-block test
(45_block_checksum.md R241). -/
theorem blockByte_cases (i : BitVec 17) (v : Byte) (s : State) :
    (i = 0 ∧ v = 0x00#8 ∧ blockByte i v s = blockEnd { s with phase := .readingHeader, blen := 19 }) ∨
    (i = 0 ∧ v = 0xFF#8 ∧ s.hdr_valid = true ∧
      blockByte i v s = blockEnd { s with phase := .readingData, blen := s.hdr_len.setWidth 17 + 2 }) ∨
    (i = 0 ∧ v ≠ 0x00#8 ∧ ¬ (v = 0xFF#8 ∧ s.hdr_valid = true) ∧ blockByte i v s = raise .unexpectedBlockType s) ∨
    (i ≠ 0 ∧ blockByte i v s = blockEnd s) := by
  unfold blockByte
  by_cases hi : i = 0
  · by_cases hv : v = 0x00#8
    · simp [hi, hv]
    · by_cases hf : v = 0xFF#8 ∧ s.hdr_valid = true
      · obtain ⟨rfl, hh⟩ := hf
        simp [hi, hh]
      · refine .inr (.inr (.inl ⟨hi, hv, hf, ?_⟩))
        rw [if_pos hi, if_neg hv, if_neg hf]
  · exact .inr (.inr (.inr ⟨hi, if_neg hi⟩))

/-- A completed byte is stored, its BYTE event comes first, and the block rule follows (44_bit_byte_decoder.md
R218). -/
theorem byteDone_ok_iff (v : Byte) (s : State) (r : State × List Event) :
    byteDone v s = .ok r ↔ s.bptr.toNat < bufDepth ∧
      r = ((blockByte s.bptr v (countByte v { s with buf := s.buf.write s.bptr.toNat v })).1,
        .byte s.bptr v :: (blockByte s.bptr v (countByte v { s with buf := s.buf.write s.bptr.toNat v })).2) := by
  unfold byteDone
  by_cases h : s.bptr.toNat < bufDepth
  · simp [writeEntry, h, eq_comm]
  · simp [writeEntry, h]

/-- A byte that has no entry to go to is the one fault (log 8). -/
theorem byteDone_error_iff (v : Byte) (s : State) (f : Fault) :
    byteDone v s = .error f ↔ bufDepth ≤ s.bptr.toNat := by
  cases f
  unfold byteDone
  by_cases h : s.bptr.toNat < bufDepth
  · simp [writeEntry, h]
  · simp [writeEntry, h, Nat.le_of_not_lt h]

/-- A bit is shifted in, or completes a byte (44_bit_byte_decoder.md R216). -/
theorem shiftBit_cases (b : Bool) (s : State) :
    (s.bitpos = 7 ∧ shiftBit b s = byteDone (shiftIn s.sh b) { s with bitpos := 0, sh := 0 }) ∨
    (s.bitpos ≠ 7 ∧ shiftBit b s = .ok ({ s with bitpos := s.bitpos + 1, sh := shiftIn s.sh b }, [])) := by
  unfold shiftBit
  by_cases h : s.bitpos = 7
  · exact .inl ⟨h, by simp only [if_pos h]⟩
  · exact .inr ⟨h, by simp only [if_neg h]⟩

/-- An accepted half-pulse is a first half, a matching second half, or a mismatch (44_bit_byte_decoder.md R211 to
R213). -/
theorem acceptHalf_cases (k : Bool) (s : State) :
    (s.half_pend = false ∧ acceptHalf k s = .ok ({ s with half_pend := true, half_one := k }, [])) ∨
    (s.half_pend = true ∧ s.half_one = k ∧
      acceptHalf k s = shiftBit k { s with half_pend := false, half_one := false }) ∨
    (s.half_pend = true ∧ s.half_one ≠ k ∧ acceptHalf k s = .ok (raise .missingPulsePair s)) := by
  unfold acceptHalf
  cases h : s.half_pend
  · simp
  · by_cases hk : s.half_one = k <;> simp [hk]

/-- A pulse while reading is unaccepted, or a half-pulse of its category (44_bit_byte_decoder.md R210, R214). -/
theorem readBits_cases (C : ClassVector) (s : State) :
    (acceptedBit C = none ∧ readBits C s = .ok (unaccepted s)) ∨
    (∃ k, acceptedBit C = some k ∧ readBits C s = acceptHalf k { s with unclass_cnt := 0 }) := by
  unfold readBits
  cases h : acceptedBit C with
  | none => exact .inl ⟨rfl, rfl⟩
  | some k => exact .inr ⟨k, rfl, rfl⟩

/-- A pulse goes to its phase's rule (43_pilot_sync.md R180). -/
theorem protocolPulse_cases (C : ClassVector) (s : State) :
    (s.phase = .searchingPilot ∧ protocolPulse C s = .ok (searchPilot C s)) ∨
    (s.phase = .pilotLocked ∧ protocolPulse C s = .ok (pilotLocked C s)) ∨
    (s.phase = .synWait ∧ protocolPulse C s = .ok (synWait C s)) ∨
    ((s.phase = .readingHeader ∨ s.phase = .readingData) ∧ protocolPulse C s = readBits C s) ∨
    (s.phase = .complete ∧ protocolPulse C s = .ok (s, [])) := by
  cases h : s.phase <;> simp [protocolPulse, h]

/-- What SAMPLE's step does: a counted sample, silence, a seed, or an edge whose pulse goes to the phase's rule
(40_host_operations.md R122, R126). -/
theorem execSample_cases (v : Int) (s : State) :
    (isEdge v s = false ∧ silenceDue s = false ∧
      execSample v s = finish (.ok ({ advance s with cnt := cntInc s.cfg s.cnt }, []))) ∨
    (isEdge v s = false ∧ silenceDue s = true ∧
      execSample v s =
        finish (.ok (protocolSilence { advance s with cnt := cntInc s.cfg s.cnt, have_prev := false }))) ∨
    (gated s.cfg v = false ∧ s.have_prev = false ∧
      execSample v s = finish (.ok (startPulse v (advance s), []))) ∨
    (isEdge v s = true ∧
      execSample v s = finish (protocolPulse (classOf s.cfg s.cnt) (startPulse v (advance s)))) := by
  have hedge : isEdge v (advance s) = isEdge v s := rfl
  rcases edgeDetect_cases v (advance s) with ⟨he, hd⟩ | ⟨hg, hp, hd⟩ | ⟨he, hd⟩
  · rw [hedge] at he
    rcases countSample_cases (advance s) with ⟨hc, hcs⟩ | ⟨hc, hcs⟩
    · refine .inr (.inl ⟨he, hc, ?_⟩)
      rw [execSample, hd, hcs]
      rfl
    · refine .inl ⟨he, hc, ?_⟩
      rw [execSample, hd, hcs]
      rfl
  · refine .inr (.inr (.inl ⟨hg, hp, ?_⟩))
    rw [execSample, hd]
    rfl
  · refine .inr (.inr (.inr ⟨by rwa [hedge] at he, ?_⟩))
    rw [execSample, hd]
    rfl

end Sys2Proof.Machine
end

