-- ==== Sys2Proof/Laws/Block.lean ====
section
/-! SUPPORT. Lists of completed bytes given to the block assembler: what the buffer and the checksum hold after them, and
a whole block (44_bit_byte_decoder.md R218; 45_block_checksum.md R241). -/

namespace Sys2Proof.Machine

open Sys2Proof.Config

/-! ### The XOR of a byte list -/

theorem xorBytes_cons (v : Byte) (vs : List Byte) : xorBytes (v :: vs) = v ^^^ xorBytes vs := by
  have (x : Byte) : vs.foldl (· ^^^ ·) x = x ^^^ vs.foldl (· ^^^ ·) 0#8 := by
    induction vs generalizing x with
    | nil => simp
    | cons w vs ih => rw [List.foldl_cons, List.foldl_cons, ih, ih (0#8 ^^^ w)]; simp [BitVec.xor_assoc]
  rw [xorBytes, List.foldl_cons, this]
  simp [xorBytes]

theorem xorBytes_append (us vs : List Byte) : xorBytes (us ++ vs) = xorBytes us ^^^ xorBytes vs := by
  induction us with
  | nil => simp [xorBytes]
  | cons u us ih => rw [List.cons_append, xorBytes_cons, xorBytes_cons, ih, BitVec.xor_assoc]

/-- A block that carries its checksum has XOR 0 (45_block_checksum.md R246). -/
theorem xorBytes_blockBytes (t : Byte) (payload : List Byte) : xorBytes (blockBytes t payload) = 0#8 := by
  rw [blockBytes, xorBytes_append, xorBytes_cons (xorBytes (t :: payload))]
  simp [xorBytes]

/-! ### A list of bytes in the buffer -/

/-- Bytes written one after the other from entry `n` on. -/
def writeBytes : Memory → Nat → List Byte → Memory
  | m, _, [] => m
  | m, n, v :: vs => writeBytes (m.write n v) (n + 1) vs

theorem read?_writeBytes (vs : List Byte) (m : Memory) (n a : Nat) :
    (writeBytes m n vs).read? a = if n ≤ a ∧ a < n + vs.length then vs[a - n]? else m.read? a := by
  induction vs generalizing m n with
  | nil => rw [if_neg (by simp only [List.length_nil]; omega), writeBytes]
  | cons v vs ih =>
    rw [writeBytes, ih, Memory.read?_write, List.length_cons]
    rcases Nat.lt_trichotomy a n with h | rfl | h
    · rw [if_neg (by omega), if_neg (by omega), if_neg (by omega)]
    · simp
    · have h' : a - n = (a - (n + 1)) + 1 := by omega
      rw [h', List.getElem?_cons_succ, if_neg (by omega : ¬ a = n)]
      exact if_congr (by omega) rfl rfl

theorem writeBytes_append (us vs : List Byte) (m : Memory) (n : Nat) :
    writeBytes m n (us ++ vs) = writeBytes (writeBytes m n us) (n + us.length) vs := by
  induction us generalizing m n with
  | nil => rfl
  | cons u us ih =>
    simp only [List.cons_append, writeBytes, ih, List.length_cons]
    congr 1
    omega

/-! ### Bytes inside a block -/

/-- The state with the bytes `vs` stored from entry `bptr` on, counted, and in the checksum (44_bit_byte_decoder.md
R218). -/
def bytesStored (vs : List Byte) (s : State) : State :=
  { s with
    buf := writeBytes s.buf s.bptr.toNat vs
    xsum := s.xsum ^^^ xorBytes vs
    bptr := s.bptr + BitVec.ofNat 17 vs.length }

@[simp] theorem bytesStored_blen (vs : List Byte) (s : State) : (bytesStored vs s).blen = s.blen := rfl
@[simp] theorem bytesStored_phase (vs : List Byte) (s : State) : (bytesStored vs s).phase = s.phase := rfl
@[simp] theorem bytesStored_xsum (vs : List Byte) (s : State) :
    (bytesStored vs s).xsum = s.xsum ^^^ xorBytes vs := rfl

/-- The entry counter, where it does not wrap. -/
theorem bytesStored_bptr_toNat {vs : List Byte} {s : State} (h : s.bptr.toNat + vs.length < 2 ^ 17) :
    (bytesStored vs s).bptr.toNat = s.bptr.toNat + vs.length := by
  simp only [bytesStored, BitVec.toNat_add, BitVec.toNat_ofNat]
  omega

/-- Where the entry counter does not wrap, bytes are stored one after the other. -/
theorem bytesStored_append {us : List Byte} {s : State} (vs : List Byte) (h : s.bptr.toNat + us.length < 2 ^ 17) :
    bytesStored vs (bytesStored us s) = bytesStored (us ++ vs) s := by
  have hp : s.bptr + BitVec.ofNat 17 (us.length + vs.length) =
      s.bptr + BitVec.ofNat 17 us.length + BitVec.ofNat 17 vs.length := by rw [BitVec.ofNat_add, BitVec.add_assoc]
  have hb := bytesStored_bptr_toNat h
  simp only [bytesStored] at hb
  simp only [bytesStored, List.length_append, hp, hb, xorBytes_append, writeBytes_append, BitVec.xor_assoc]

/-- The buffer after the first bytes of a block: those bytes, and above them what it held (20_memory.md R72, R75). -/
theorem read?_bytesStored {s : State} (vs : List Byte) (h0 : s.bptr = 0) (a : Nat) :
    (bytesStored vs s).buf.read? a = if a < vs.length then vs[a]? else s.buf.read? a := by
  have h := read?_writeBytes vs s.buf s.bptr.toNat a
  simpa [bytesStored, h0] using h

/-- The registers a byte leaves to the block rule. -/
theorem countByte_write (v : Byte) (s : State) :
    countByte v { s with buf := s.buf.write s.bptr.toNat v } = bytesStored [v] s := by
  have hx : xorBytes [v] = v := by simp [xorBytes]
  simp only [bytesStored, hx]
  rfl

/-- A byte that neither starts nor ends its block is stored and announced, and nothing else happens. -/
theorem byteDone_inside (v : Byte) (s : State) (h0 : s.bptr ≠ 0) (hl : s.bptr.toNat < bufDepth)
    (he : s.bptr + 1 ≠ s.blen) : byteDone v s = .ok (bytesStored [v] s, [.byte s.bptr v]) := by
  refine (byteDone_ok_iff v s _).2 ⟨hl, ?_⟩
  rw [countByte_write, blockByte, if_neg h0, blockEnd, if_neg (by exact he)]

/-- So with any number of bytes that neither start nor end their block. -/
theorem feedBytes_inside (vs : List Byte) (s : State) (h0 : s.bptr ≠ 0)
    (hl : s.bptr.toNat + vs.length < s.blen.toNat) (hb : s.blen.toNat ≤ bufDepth) :
    feedBytes vs s = .ok (bytesStored vs s, byteEvents s.bptr.toNat vs) := by
  induction vs generalizing s with
  | nil => simp [feedBytes, bytesStored, writeBytes, xorBytes, byteEvents]
  | cons v vs ih =>
    rw [List.length_cons] at hl
    have hd : s.bptr.toNat + [v].length < 2 ^ 17 := by
      simp only [bufDepth, List.length_singleton] at hb ⊢
      omega
    have hn := bytesStored_bptr_toNat hd
    rw [List.length_singleton] at hn
    have he : s.bptr + 1 ≠ s.blen := fun h => by
      have : (bytesStored [v] s).bptr = s.blen := h
      rw [this] at hn
      omega
    have h1 : (bytesStored [v] s).bptr ≠ 0 := fun h => by rw [h] at hn; cases hn
    simp only [feedBytes, byteDone_inside v s h0 (by omega) he]
    rw [ih (bytesStored [v] s) h1 (by rw [hn, bytesStored_blen]; omega) hb, bytesStored_append vs hd, byteEvents, hn,
      BitVec.ofNat_toNat, BitVec.setWidth_eq]
    rfl

/-- Two lists of bytes one after the other. -/
theorem feedBytes_append {us vs : List Byte} {s t u : State} {evs evs' : List Event}
    (h : feedBytes us s = .ok (t, evs)) (h' : feedBytes vs t = .ok (u, evs')) :
    feedBytes (us ++ vs) s = .ok (u, evs ++ evs') := by
  induction us generalizing s evs with
  | nil =>
    cases h
    exact h'
  | cons w us ih =>
    simp only [feedBytes, List.cons_append] at h ⊢
    cases hb : byteDone w s with
    | error f => simp only [hb] at h; cases h
    | ok r =>
      obtain ⟨r, e⟩ := r
      simp only [hb] at h ⊢
      cases hf : feedBytes us r with
      | error f => simp only [hf] at h; cases h
      | ok q =>
        obtain ⟨q, e'⟩ := q
        simp only [hf] at h
        cases h
        rw [ih hf]
        simp only [List.append_assoc]

theorem byteEvents_append (n : Nat) (us vs : List Byte) :
    byteEvents n (us ++ vs) = byteEvents n us ++ byteEvents (n + us.length) vs := by
  induction us generalizing n with
  | nil => rfl
  | cons u us ih => simp only [List.cons_append, byteEvents, ih, List.length_cons]; congr 3; omega

/-! ### A whole block -/

/-- A block whose type byte `t` frames it, as phase `p` and of its own length: every byte is stored and announced, and the
last one goes to the end-of-block test (45_block_checksum.md R241). -/
theorem feedBytes_block {s u : State} {t c : Byte} {p : Phase} {mid : List Byte} {e : List Event} (h0 : s.bptr = 0)
    (hl : mid.length + 2 ≤ bufDepth)
    (ht : ∀ r, r.hdr_len = s.hdr_len → r.hdr_valid = s.hdr_valid →
      blockByte 0 t r = blockEnd { r with phase := p, blen := BitVec.ofNat 17 (mid.length + 2) })
    (he : blockEnd { bytesStored (t :: mid ++ [c]) s with phase := p, blen := BitVec.ofNat 17 (mid.length + 2) } =
      (u, e)) :
    feedBytes (t :: mid ++ [c]) s = .ok (u, byteEvents 0 (t :: mid ++ [c]) ++ e) := by
  have hbd : bufDepth = 65537 := rfl
  have hz : s.bptr.toNat = 0 := by rw [h0]; rfl
  -- the framed state after the bytes `vs`
  let f (vs : List Byte) : State :=
    { bytesStored vs s with phase := p, blen := BitVec.ofNat 17 (mid.length + 2) }
  have hf (us vs : List Byte) (h : us.length < 2 ^ 17) : bytesStored vs (f us) = f (us ++ vs) := by
    have := bytesStored_append vs (us := us) (s := s) (by rw [hz, Nat.zero_add]; exact h)
    simp only [f, ← this]
    rfl
  have hn (vs : List Byte) (h : vs.length < 2 ^ 17) : (f vs).bptr.toNat = vs.length := by
    show (bytesStored vs s).bptr.toNat = _
    rw [bytesStored_bptr_toNat (by rw [hz, Nat.zero_add]; exact h), hz, Nat.zero_add]
  have hb (vs : List Byte) : (f vs).blen.toNat = mid.length + 2 := Nat.mod_eq_of_lt (by omega)
  have h1 : feedBytes [t] s = .ok (f [t], byteEvents 0 [t]) := by
    have : byteDone t s = .ok (f [t], [.byte 0 t]) := by
      refine (byteDone_ok_iff t s _).2 ⟨by omega, ?_⟩
      rw [countByte_write, h0, ht (bytesStored [t] s) rfl rfl, blockEnd, if_neg]
      intro h
      have := congrArg BitVec.toNat h
      rw [show (bytesStored [t] s).bptr.toNat = _ from hn [t] (by simp)] at this
      have := this.trans (hb [])
      simp at this
    simp only [feedBytes, this]
    rfl
  have h2 := feedBytes_inside mid (f [t]) (fun h => by have := hn [t] (by simp); rw [h] at this; cases this)
    (by rw [hn [t] (by simp), hb, List.length_singleton]; omega) (by rw [hb]; exact hl)
  rw [hn [t] (by simp), hf [t] mid (by simp)] at h2
  have hm : ([t] ++ mid).length = mid.length + 1 := by simp
  have h3 : feedBytes [c] (f ([t] ++ mid)) = .ok (u, byteEvents (mid.length + 1) [c] ++ e) := by
    have hk := hn ([t] ++ mid) (by omega)
    have : byteDone c (f ([t] ++ mid)) = .ok (u, .byte (f ([t] ++ mid)).bptr c :: e) := by
      refine (byteDone_ok_iff c _ _).2 ⟨by omega, ?_⟩
      rw [countByte_write, hf ([t] ++ mid) [c] (by omega), blockByte, if_neg]
      · rw [show blockEnd (f ([t] ++ mid ++ [c])) = (u, e) from he]
      · exact fun h => by rw [h, hm] at hk; cases hk
    simp only [feedBytes, this, byteEvents]
    rw [← hm, ← hk, BitVec.ofNat_toNat, BitVec.setWidth_eq]
    simp
  have h := feedBytes_append h1 (feedBytes_append h2 h3)
  have hev : byteEvents 0 [t] ++ (byteEvents [t].length mid ++ (byteEvents (mid.length + 1) [c] ++ e)) =
      byteEvents 0 (t :: mid ++ [c]) ++ e := by
    simp only [byteEvents, byteEvents_append, List.append_assoc, List.cons_append, List.nil_append,
      List.length_singleton, Nat.zero_add, Nat.add_comm]
  rw [hev] at h
  exact h

end Sys2Proof.Machine
end

