-- ==== Sys2Proof/Laws/Feed.lean ====
section
/-! SUPPORT. Runs of pins, one step at a time: what `feed` gives on a first pin and on two sequences one after the other
(60_exceptions.md R310), and the step of one word or of `rst`. -/

namespace Sys2Proof.Machine

open Sys2Proof.Config

@[simp] theorem feed_nil (s : State) : feed [] s = .next (s, []) := rfl

/-- One pin more in front, when its step has a next state. -/
theorem feed_cons_of_step {p : HostInput} {ps : List HostInput} {s t u : State} {evs : List EventWord}
    (h : step { s with input := [p] } = .next t) (hf : feed ps t = .next (u, evs)) :
    feed (p :: ps) s = .next (u, eventsOnPorts t ++ evs) := by
  simp only [feed, h, hf]

/-- And what a run of at least one pin says of its first step. -/
theorem feed_cons_inv {p : HostInput} {ps : List HostInput} {s u : State} {evs : List EventWord}
    (h : feed (p :: ps) s = .next (u, evs)) :
    ∃ t evs', step { s with input := [p] } = .next t ∧ feed ps t = .next (u, evs') ∧
      evs = eventsOnPorts t ++ evs' := by
  simp only [feed] at h
  split at h
  · next t ht =>
    split at h
    · next u' evs' hu =>
      obtain ⟨rfl, rfl⟩ : u' = u ∧ eventsOnPorts t ++ evs' = evs := by simpa using h
      exact ⟨t, evs', ht, hu, rfl⟩
    · cases h
    · cases h
  · cases h
  · cases h

/-- Two sequences one after the other. -/
theorem feed_append {ps qs : List HostInput} {s t u : State} {evs evs' : List EventWord}
    (h : feed ps s = .next (t, evs)) (h' : feed qs t = .next (u, evs')) :
    feed (ps ++ qs) s = .next (u, evs ++ evs') := by
  induction ps generalizing s evs with
  | nil =>
    obtain ⟨rfl, rfl⟩ : s = t ∧ [] = evs := by simpa using h
    exact h'
  | cons p ps ih =>
    obtain ⟨r, evs₁, hr, hf, rfl⟩ := feed_cons_inv h
    rw [List.cons_append, List.append_assoc]
    exact feed_cons_of_step hr (ih hf)

/-- A run of two sequences is a run of each. -/
theorem feed_append_inv {ps qs : List HostInput} {s u : State} {evs : List EventWord}
    (h : feed (ps ++ qs) s = .next (u, evs)) :
    ∃ t evs₁ evs₂, feed ps s = .next (t, evs₁) ∧ feed qs t = .next (u, evs₂) ∧ evs = evs₁ ++ evs₂ := by
  induction ps generalizing s evs with
  | nil => exact ⟨s, [], evs, rfl, h, rfl⟩
  | cons p ps ih =>
    obtain ⟨r, evs', hr, hf, rfl⟩ := feed_cons_inv h
    obtain ⟨t, evs₁, evs₂, h₁, h₂, rfl⟩ := ih hf
    exact ⟨t, _, evs₂, feed_cons_of_step hr h₁, h₂, (List.append_assoc ..).symm⟩

/-- The step of one waiting word (40_host_operations.md R120, R121). -/
theorem step_one_word {s : State} {w : Nat} {i : Instr} (hl : legal s.cfg = true)
    (hd : decode s.cfg.SAMPLE_W w = .ok i) :
    step { s with input := [{ rst := false, word := w }] } = exec i { s with input := [] } := by
  simp [step, hl, runPins, runWord, hd]

/-- The step of one waiting `rst` (70_reset_and_hazards.md R330, R333). -/
theorem step_one_rst {s : State} {w : Nat} (hl : legal s.cfg = true) :
    step { s with input := [{ rst := true, word := w }] } = .next (applyRst { s with input := [] }) := by
  simp [step, hl, runPins]

/-- A step has a next state only at a legal configuration (00_scope.md R13). -/
theorem legal_of_step {s t : State} (h : step s = .next t) : legal s.cfg = true := by
  cases hl : legal s.cfg
  · simp [step, hl] at h
  · rfl

end Sys2Proof.Machine
end

