-- ==== Sys2Proof/Laws/PerInstr.lean ====
section
/-! SUPPORT. Facts of every instruction as syntax, one lemma a constructor. -/

namespace Sys2Proof.Laws.OpcodeField

open Sys2Proof

/-- The two bits of a concatenation above its low part. -/
theorem opField_of_append (sw : Nat) (op : BitVec 2) (d : BitVec sw) :
    opField sw ((op ++ d).cast (Nat.add_comm 2 sw)) = op := by
  apply BitVec.eq_of_getLsbD_eq
  intro i hi
  simp [opField, hi, BitVec.getElem_append]

/-- The op field of an instruction's word is the instruction's code, at every width (30_encoding.md R90, R91). -/
def Statement (i : Instr) : Prop := ∀ sw, opField sw (encode sw i) = i.op

theorem idle (d : Nat) : Statement (.idle d) := fun sw => opField_of_append sw _ _

theorem sample (v : Int) : Statement (.sample v) := fun sw => opField_of_append sw _ _

theorem restart (d : Nat) : Statement (.restart d) := fun sw => opField_of_append sw _ _

theorem reserved (d : Nat) : Statement (.reserved d) := fun sw => opField_of_append sw _ _

end Sys2Proof.Laws.OpcodeField
end

