-- ==== Sys2Proof/Laws/Sample.lean ====
section
/-! SUPPORT. The bridge from the functions SAMPLE calls to the words claims are stated in (Safety.lean): the edge, the
windows, the bit a reading phase takes, and the event words. -/

namespace Sys2Proof.Machine

open Sys2Proof.Config

/-! ### The edge -/

/-- The edge test says what `EdgeAt` says (41_edge_detector.md R143). -/
theorem isEdge_iff (v : Int) (s : State) : isEdge v s = true ↔ EdgeAt v s := by
  have hg : gated s.cfg v = false ↔ s.cfg.NOISE_T ≤ v.natAbs := decide_eq_false_iff_not.trans Nat.not_lt
  have hn : sampleNeg v ≠ s.prev_neg ↔ s.prev_neg ≠ decide (v < 0) := ne_comm
  simp only [isEdge, EdgeAt, Bool.and_eq_true, Bool.not_eq_true', bne_iff_ne, and_assoc, hg, hn]

/-- An edge sample hands the measured length to the phase's rule (40_host_operations.md R122). -/
theorem execSample_edge {v : Int} {s : State} (h : EdgeAt v s) :
    execSample v s = finish (protocolPulse (classOf s.cfg s.cnt) (edgeTaken v s)) := by
  have ht : startPulse v (advance s) = edgeTaken v s := by
    simp only [startPulse, advance, edgeTaken, sampleNeg, h.2.1]
  have he := (isEdge_iff v s).2 h
  rcases execSample_cases v s with ⟨hn, _⟩ | ⟨hn, _⟩ | ⟨_, hp, _⟩ | ⟨_, hx⟩
  · rw [hn] at he; cases he
  · rw [hn] at he; cases he
  · rw [h.2.1] at hp; cases hp
  · rw [hx, ht]

/-! ### Silence -/

/-- A sample with no edge declares silence exactly when it is due (41_edge_detector.md R147). -/
theorem declaresSilence_iff {v : Int} {s : State} (h : NoEdge v s) : DeclaresSilence v s ↔ silenceDue s = true := by
  have hm : countNext s = min (s.cnt + 1) (cntMax s.cfg) := rfl
  rw [DeclaresSilence, silenceDue_iff, hm]
  refine ⟨fun ⟨_, hc, hn⟩ => ⟨hc, by omega⟩, fun ⟨hc, hn⟩ => ⟨h, hc, by omega⟩⟩

/-! ### The windows -/

/-- A window is an interval (42_pulse_classifier.md R162). -/
theorem inWindow_iff (c : Cfg) (k : Category) (n : Nat) :
    inWindow c k n = true ↔ expectedCount c k ≤ n + tolerance c k ∧ n ≤ expectedCount c k + tolerance c k := by
  simp only [inWindow, decide_eq_true_eq]
  omega

/-- A category is in the class vector exactly when the length is in its window (42_pulse_classifier.md R163). -/
theorem hasCategory_classOf (c : Cfg) (n : Nat) (k : Category) : hasCategory (classOf c n) k = inWindow c k n := by
  simp only [classOf, categories, List.foldl_cons, List.foldl_nil, markCategory, hasCategory]
  cases k <;> cases inWindow c .pilot n <;> cases inWindow c .one n <;> cases inWindow c .zero n <;>
    cases inWindow c .synOn n <;> cases inWindow c .synOff n <;> decide

/-- The class vector of the measured length says what `Measures` says. -/
theorem hasCategory_iff (k : Category) (s : State) : hasCategory (classOf s.cfg s.cnt) k = true ↔ Measures k s := by
  rw [hasCategory_classOf, inWindow_iff, Measures]

/-- The bit a reading phase takes (42_pulse_classifier.md R166, 44_bit_byte_decoder.md R210). -/
theorem acceptedBit_eq_some_iff (b : Bool) (s : State) :
    acceptedBit (classOf s.cfg s.cnt) = some b ↔ TakesBit b s := by
  simp only [acceptedBit, TakesBit, ← hasCategory_iff]
  cases hasCategory (classOf s.cfg s.cnt) .zero <;> cases hasCategory (classOf s.cfg s.cnt) .one <;> simp [eq_comm]

/-- No bit is taken from a length in neither window (44_bit_byte_decoder.md R214). -/
theorem acceptedBit_eq_none_iff (s : State) :
    acceptedBit (classOf s.cfg s.cnt) = none ↔ ¬ Measures .zero s ∧ ¬ Measures .one s := by
  simp only [acceptedBit, ← hasCategory_iff]
  cases hasCategory (classOf s.cfg s.cnt) .zero <;> cases hasCategory (classOf s.cfg s.cnt) .one <;> simp

/-! ### Event words as numbers (30_encoding.md R98) -/

@[simp] theorem eventWord_pilotLocked : eventWord .pilotLocked = wordPilotLocked := by decide
@[simp] theorem eventWord_header : eventWord .header = wordHeader := by decide
@[simp] theorem eventWord_error (e : ErrCode) : eventWord (.error e) = wordError (errorCode e).toNat := by
  cases e <;> decide

/-- The fields of an event word do not overlap, so the word is their weighted sum. -/
theorem packEvent_toNat (kind code : BitVec 3) (value : Byte) (index : BitVec 17) :
    (packEvent kind code value index).toNat =
      kind.toNat + code.toNat * 2 ^ 3 + value.toNat * 2 ^ 8 + index.toNat * 2 ^ 16 := by
  have h1 := kind.isLt
  have h2 := code.isLt
  have h3 := value.isLt
  have h4 := index.isLt
  simp only [packEvent, BitVec.toNat_append, BitVec.toNat_ofNat]
  rw [← Nat.shiftLeft_add_eq_or_of_lt h1, ← Nat.shiftLeft_add_eq_or_of_lt h2,
    ← Nat.shiftLeft_add_eq_or_of_lt (by decide : 0 % 2 ^ 2 < 2 ^ 2), ← Nat.shiftLeft_add_eq_or_of_lt h3,
    ← Nat.shiftLeft_add_eq_or_of_lt h4]
  simp only [Nat.shiftLeft_eq]
  omega

@[simp] theorem eventWord_byte (i : BitVec 17) (v : Byte) : eventWord (.byte i v) = wordByte i.toNat v := by
  have h1 := v.isLt
  have h2 := i.isLt
  apply BitVec.eq_of_toNat_eq
  simp [eventWord, packEvent_toNat, wordByte, BitVec.toNat_ofNat]
  omega

@[simp] theorem eventWord_complete (n : BitVec 17) : eventWord (.complete n) = wordComplete n.toNat := by
  have h2 := n.isLt
  apply BitVec.eq_of_toNat_eq
  simp [eventWord, packEvent_toNat, wordComplete, BitVec.toNat_ofNat]
  omega

/-- The ports after a step with no event, one, or two (30_encoding.md R97). -/
theorem setSlots_nil (s : State) : setSlots [] s = noEvents s := rfl
theorem setSlots_single (e : Event) (s : State) : setSlots [e] s = oneEvent (eventWord e) s := rfl
theorem setSlots_pair (e e' : Event) (s : State) : setSlots [e, e'] s = twoEvents (eventWord e) (eventWord e') s := rfl

/-- An error that ends a step: the ERROR event, the log and acquisition reset (60_exceptions.md R303). -/
theorem finish_raise (e : ErrCode) (s : State) :
    finish (.ok (raise e s)) =
      .next (oneEvent (wordError (errorCode e).toNat) (errorTaken (errorCode e).toNat s)) := by
  cases e <;> rfl

/-! ### The phases, on a measured length -/

/-- An unaccepted pulse goes to `Unaccepted()`, in each of the four phases (42_pulse_classifier.md R167). -/
theorem protocolPulse_of_unaccepts {v : Int} {s : State} (h : Unaccepts s) :
    protocolPulse (classOf s.cfg s.cnt) (edgeTaken v s) = .ok (unaccepted (edgeTaken v s)) := by
  have no {k : Category} (hk : ¬ Measures k s) : hasCategory (classOf s.cfg s.cnt) k = false :=
    Bool.eq_false_iff.2 fun hc => hk ((hasCategory_iff k s).1 hc)
  rcases h with ⟨hp, h1, h2⟩ | ⟨hp, h1⟩ | ⟨hp | hp, h1⟩ <;>
    replace hp : (edgeTaken v s).phase = _ := hp
  · simp only [protocolPulse, hp, pilotLocked, no h1, no h2, Bool.false_eq_true, if_false]
  · simp only [protocolPulse, hp, synWait, no h1, Bool.false_eq_true, if_false]
  · simp only [protocolPulse, hp, readBits, (acceptedBit_eq_none_iff s).2 h1]
  · simp only [protocolPulse, hp, readBits, (acceptedBit_eq_none_iff s).2 h1]

/-- An accepted half-pulse while reading (44_bit_byte_decoder.md R210). -/
theorem protocolPulse_of_takesBit {v : Int} {s : State} {b : Bool} (hr : reading s) (ht : TakesBit b s) :
    protocolPulse (classOf s.cfg s.cnt) (edgeTaken v s) = acceptHalf b { edgeTaken v s with unclass_cnt := 0 } := by
  rcases hr with hp | hp <;> replace hp : (edgeTaken v s).phase = _ := hp <;>
    simp only [protocolPulse, hp, readBits, (acceptedBit_eq_some_iff b s).2 ht]

/-- A length gives at most one bit. -/
theorem TakesBit.unique {a b : Bool} {s : State} (ha : TakesBit a s) (hb : TakesBit b s) : a = b := by
  rcases ha with ⟨h, rfl⟩ | ⟨h, _, rfl⟩ <;> rcases hb with ⟨h', rfl⟩ | ⟨h', _, rfl⟩ <;> first | rfl | contradiction

/-- The shift register in arithmetic (44_bit_byte_decoder.md R216). -/
theorem shiftIn_eq (sh : BitVec 8) (b : Bool) : shiftIn sh b = BitVec.ofNat 8 (2 * sh.toNat + b.toNat) := by
  revert sh b; decide +kernel

/-- A sample that completes a byte is ByteDone's work and the block rule's (44_bit_byte_decoder.md R218). -/
theorem execSample_completesByte {v : Int} {s : State} {b : Byte} (hb : CompletesByte v s b) :
    execSample v s = finish (byteDone b
      { edgeTaken v s with unclass_cnt := 0, half_pend := false, half_one := false, bitpos := 0, sh := 0 }) := by
  obtain ⟨h, hr, hp, ht, h7, rfl⟩ := hb
  rw [execSample_edge h, protocolPulse_of_takesBit hr ht]
  rcases acceptHalf_cases s.half_one { edgeTaken v s with unclass_cnt := 0 } with ⟨hp', _⟩ | ⟨_, _, he⟩ | ⟨_, ho, _⟩
  · exact absurd (hp.symm.trans hp') (by decide)
  · rw [he]
    rcases shiftBit_cases s.half_one
        { { edgeTaken v s with unclass_cnt := 0 } with half_pend := false, half_one := false } with ⟨_, he⟩ | ⟨h7', _⟩
    · rw [he, shiftIn_eq]; rfl
    · exact absurd h7 h7'
  · exact absurd rfl ho

/-- The same, for an entry that exists. -/
theorem execSample_completesByte_next {v : Int} {s : State} {b : Byte} (hb : CompletesByte v s b)
    (hl : s.bptr.toNat < bufDepth) :
    execSample v s = .next (setSlots (.byte s.bptr b :: (blockByte s.bptr b (byteTaken v b s)).2)
      (blockByte s.bptr b (byteTaken v b s)).1) := by
  rw [execSample_completesByte hb, (byteDone_ok_iff b
    { edgeTaken v s with unclass_cnt := 0, half_pend := false, half_one := false, bitpos := 0, sh := 0 } _).2 ⟨hl, rfl⟩]
  rfl

/-! ### The checksum over the buffer -/

theorem bufferXor_congr (l : List Nat) (m n : Memory) (x : Byte) (h : ∀ i ∈ l, m.read? i = n.read? i) :
    l.foldl (fun x i => x ^^^ (m.read? i).getD 0) x = l.foldl (fun x i => x ^^^ (n.read? i).getD 0) x := by
  induction l generalizing x with
  | nil => rfl
  | cons i l ih => rw [List.foldl_cons, List.foldl_cons, h i (by simp), ih _ (fun j hj => h j (by simp [hj]))]

/-- The byte written next extends the XOR (45_block_checksum.md R246). -/
theorem bufferXor_write (m : Memory) (n : Nat) (v : Byte) :
    bufferXor (m.write n v) (n + 1) = bufferXor m n ^^^ v := by
  unfold bufferXor
  rw [List.range_succ, List.foldl_append, bufferXor_congr (List.range n) (m.write n v) m]
  · simp only [List.foldl_cons, List.foldl_nil, Memory.read?_write_same, Option.getD_some]
  · exact fun i hi => Memory.read?_write_ne m v (Nat.ne_of_lt (List.mem_range.1 hi))

/-! ### What a legal configuration gives (00_scope.md R13) -/

theorem legal_thresholds {c : Cfg} (h : legal c = true) :
    1 ≤ c.PILOT_LOCK_HDR ∧ c.PILOT_LOCK_HDR ≤ 65535 ∧ 1 ≤ c.PILOT_LOCK_DATA ∧ c.PILOT_LOCK_DATA ≤ 65535 := by
  simp only [legal, Bool.and_eq_true, decide_eq_true_eq] at h
  exact h.1.1.1.1.1.2

theorem legal_silence_fits {c : Cfg} (h : legal c = true) : c.SILENCE_CYCLE + 1 ≤ 2 ^ c.CNT_W - 1 := by
  simp only [legal, Bool.and_eq_true, decide_eq_true_eq] at h
  exact h.1.1.1.1.2

theorem legal_budgets {c : Cfg} (h : legal c = true) : c.BAD_PULSE_BUDGET ≤ 254 ∧ c.UNCLASS_TOL ≤ 255 := by
  simp only [legal, Bool.and_eq_true, decide_eq_true_eq] at h
  exact h.1.1.2

/-- Two disjoint windows below `SILENCE_CYCLE` leave it no room to be 0. -/
theorem legal_silence_pos {c : Cfg} (h : legal c = true) : 1 ≤ c.SILENCE_CYCLE := by
  simp only [legal, disjointWindows, Bool.and_eq_true, decide_eq_true_eq] at h
  have hz : windowEnd c .zero ≤ c.SILENCE_CYCLE := by simpa using List.all_eq_true.1 h.2 .zero (by decide)
  have ho : windowEnd c .one ≤ c.SILENCE_CYCLE := by simpa using List.all_eq_true.1 h.2 .one (by decide)
  have e1 : windowEnd c .zero = expectedCount c .zero + tolerance c .zero := rfl
  have e2 : windowEnd c .one = expectedCount c .one + tolerance c .one := rfl
  have h1 := h.1.1.1.1.1.1.1.2
  omega

end Sys2Proof.Machine
end

