-- ==== Sys2Proof/Laws/Stimulus.lean ====
section
/-! SUPPORT. The stimulus: what its writers emit one call after another, and what an allowed amplitude gives every sample
(48_line_code_stimulus.md R270 to R275). -/

namespace Sys2Proof.Machine

open Sys2Proof.Config

/-- The writer after a sequence of calls. -/
theorem writeAll_append (c : Cfg) (p : StimCfg) (w : Writer) (ops ops' : List WaveOp) :
    writeAll c p w (ops ++ ops') = writeAll c p w ops ++ writeAll c p (ops.foldl waveNext w) ops' := by
  induction ops generalizing w with
  | nil => rfl
  | cons op ops ih => simp [writeAll, ih]

/-- The amplitude is allowed exactly when it is not gated and fits (48_line_code_stimulus.md R270, R271; log 19). -/
theorem amplitudeError_eq_none_iff (c : Cfg) (p : StimCfg) :
    amplitudeError c p = none ↔ c.NOISE_T ≤ p.AMP ∧ sampleFits c.SAMPLE_W p.AMP = true := by
  unfold amplitudeError
  split
  · simp; omega
  · split <;> simp_all

/-- There are samples exactly for an allowed amplitude, and then they are what the writers emit. -/
theorem render_ok_iff (c : Cfg) (p : StimCfg) (ops : List WaveOp) (vs : List Int) :
    render c p ops = .ok vs ↔
      c.NOISE_T ≤ p.AMP ∧ sampleFits c.SAMPLE_W p.AMP = true ∧ vs = writeAll c p {} ops := by
  rw [← and_assoc, ← amplitudeError_eq_none_iff]
  unfold render
  cases amplitudeError c p <;> simp [eq_comm]

/-- With an allowed amplitude no sample of a pulse is gated, and it has the sign of the level
(48_line_code_stimulus.md R271, R273). -/
theorem levelSample_pulse {c : Cfg} {p : StimCfg} (hn : 1 ≤ c.NOISE_T) (h : c.NOISE_T ≤ p.AMP) (neg : Bool) :
    gated c (levelSample neg p.AMP) = false ∧ sampleNeg (levelSample neg p.AMP) = neg := by
  cases neg <;> simp [gated, sampleMag, sampleNeg, levelSample] <;> omega

/-- Every sample of a stimulus fits its word (48_line_code_stimulus.md R270). -/
theorem sampleFits_of_mem_writeAll {c : Cfg} {p : StimCfg} (h : sampleFits c.SAMPLE_W p.AMP = true) {v : Int}
    {w : Writer} {ops : List WaveOp} (hv : v ∈ writeAll c p w ops) : sampleFits c.SAMPLE_W v = true := by
  induction ops generalizing w with
  | nil => cases hv
  | cons op ops ih =>
    rcases List.mem_append.1 hv with hv | hv
    · have hpos : (0 : Int) < 2 ^ c.SAMPLE_W := by positivity
      simp only [sampleFits, decide_eq_true_eq] at h ⊢
      cases op with
      | pulse d =>
        obtain ⟨_, rfl⟩ := List.mem_replicate.1 hv
        unfold levelSample
        split <;> omega
      | gap d =>
        obtain ⟨_, rfl⟩ := List.mem_replicate.1 hv
        omega
    · exact ih hv

end Sys2Proof.Machine
end

