-- ==== Sys2Proof/Tests/Slice0.lean ====
section
/-! SUPPORT. The model's own tests: the WellFormed smoke test, decode tests on words written out from 30_encoding.md
R90, R91 and R111, one-step tests whose expected values are the vectors of 95_test_vectors.md, and for every obligation
with hypotheses states and operands that meet them. -/

namespace Sys2Proof.Tests

open Sys2Proof Sys2Proof.Config Sys2Proof.Machine

/-! ### Well-formedness (30_encoding.md R90, R111) -/

/-- One ill-formed term for each check, refused. -/
theorem test_wellFormed_refuses_idle_data_too_wide : Instr.wellFormed 16 (.idle 0x10000) = false := by decide
theorem test_wellFormed_refuses_restart_data_too_wide : Instr.wellFormed 16 (.restart 0x10000) = false := by decide
theorem test_wellFormed_refuses_reserved_data_too_wide : Instr.wellFormed 16 (.reserved 0x10000) = false := by decide
theorem test_wellFormed_refuses_sample_too_large : Instr.wellFormed 16 (.sample 32768) = false := by decide
theorem test_wellFormed_refuses_sample_too_small : Instr.wellFormed 16 (.sample (-32769)) = false := by decide

/-! ### Decoding, bit by bit -/

/-- `op = 00`, `data = 1111 1111 1111 1111`. -/
theorem test_decode_idle : decodeTableWord 18 0b00_1111111111111111 = some (.idle 0xFFFF) := by decide

/-- `op = 01`, `data = 1110 1100 1100 1101` = −4915 (30_encoding.md R111). -/
theorem test_decode_sample : decodeTableWord 18 0b01_1110110011001101 = some (.sample (-4915)) := by decide

/-- `op = 01`, `data = 0001 0011 0011 0011` = 4915 (30_encoding.md R111). -/
theorem test_decode_sample_positive : decodeTableWord 18 0b01_0001001100110011 = some (.sample 4915) := by decide

/-- `op = 10`, `data = 0`. -/
theorem test_decode_restart : decodeTableWord 18 0b10_0000000000000000 = some (.restart 0) := by decide

/-- `op = 11`, `data = 1010 1011 1100 1101`. -/
theorem test_decode_reserved : decodeTableWord 18 0b11_1010101111001101 = some (.reserved 0xABCD) := by decide

/-- A nineteenth bit makes no word. -/
theorem test_decode_too_wide : decode 16 0x40000 = .error .tooWide ∧ decodeTableWord 24 0x40000 = none := by decide

theorem test_encode : encode 16 (.sample (-4915)) = 0x1ECCD#18 ∧ encode 16 (.restart 0) = 0x20000#18 := by decide

/-! ### One step on a small state (95_test_vectors.md section 2) -/

/-- `s` after the input word `w` satisfies `f`. -/
def after (w : Nat) (s : State) (f : State → Bool) : Bool :=
  match step (s.withFetchWord 18 w) with
  | .next t => f t
  | .fault _ => false
  | .refused _ => false

/-- V40-2. -/
theorem test_idle : after 0x00000 { State.reset with phase := .readingHeader, pilot_cnt := 7, cnt := 9, pos := 44 }
    (fun t => decide (t = { State.reset with phase := .readingHeader, pilot_cnt := 7, cnt := 9, pos := 44 })) = true := by
  decide +kernel

/-- V40-4. -/
theorem test_restart : after 0x20000
    { State.reset with phase := .complete, hdr_valid := true, hdr_len := 10, err_cnt := 3, err_seen := true,
                       ill_op := true, pos := 9, have_prev := true, cnt := 4, buf := [(3, 7)] }
    (fun t => decide (t = { State.reset with buf := [(3, 7)] })) = true := by decide +kernel

/-- V40-8. -/
theorem test_reserved : after 0x3ABCD State.reset (fun t => decide (t = { State.reset with ill_op := true })) = true := by
  decide +kernel

/-- V40-6: `pos` wraps, and a sample of the same sign counts. -/
theorem test_sample_wraps_pos : after 0x10064 { State.reset with pos := 0xFFFFFFFF, have_prev := true, cnt := 3 }
    (fun t => decide (t.pos = 0 ∧ t.cnt = 4)) = true := by decide +kernel

/-- V41-11: silence while locked. -/
theorem test_sample_silence : after 0x10000
    { State.reset with have_prev := true, cnt := 4096, phase := .pilotLocked, pilot_cnt := 8063 }
    (fun t => decide (t.cnt = 4097 ∧ t.have_prev = false ∧ t.phase = .searchingPilot ∧ t.pilot_cnt = 0 ∧
      t.err_cnt = 1 ∧ t.last_err = 3 ∧ eventsOnPorts t = [4 + 3 * 8])) = true := by decide +kernel

/-! ### The amplitude of the stimulus (48_line_code_stimulus.md R270, R271; log 19) -/

/-- The lowest amplitude that is not gated, the one below it, the widest that fits 16 bits, the one above it, and 4915 in
8 bits. -/
theorem test_render_asks_for_the_amplitude :
    render Cfg.default { AMP := 20 } [.pulse 100, .pulse 100] = .ok [20, -20, -20] ∧
    render Cfg.default { AMP := 19 } [.pulse 100] = .error .amplitudeGated ∧
    render Cfg.default { AMP := 32767 } [.pulse 100] = .ok [32767] ∧
    render Cfg.default { AMP := 32768 } [.pulse 100] = .error .amplitudeTooWide ∧
    render { Cfg.default with SAMPLE_W := 8 } {} [.pulse 100] = .error .amplitudeTooWide := by decide +kernel

/-! ### Witnesses: for each obligation with hypotheses, a state and operands that meet them -/

/-- An armed detector that has measured `n` samples of positive sign in phase `p`. The sample −100 is then an edge. -/
def measured (p : Phase) (n : Nat) : State :=
  { State.resetWith Cfg.small with phase := p, have_prev := true, cnt := n }

/-- A reading phase one half-pulse short of a byte of seven zero bits and `b`. -/
def eighth (p : Phase) (b : Bool) : State :=
  { measured p (if b then 22 else 11) with half_pend := true, half_one := b, bitpos := 7 }

/-- Nothing is waiting, then `w` is. -/
def waiting (w : Nat) (s : State) : State := { s with input := [{ rst := false, word := w }] }

theorem test_witness_EncodedInstructionDecodesBack :
    Instr.wellFormed 16 (.sample (-32768)) = true ∧ Instr.wellFormed 16 (.sample 32767) = true ∧
    Instr.wellFormed 0 (.sample 0) = true ∧ Instr.wellFormed 16 (.idle 0xFFFF) = true ∧
    Instr.wellFormed 16 (.restart 0xFFFF) = true ∧ Instr.wellFormed 16 (.reserved 0) = true := by decide

/-- Both ends of each of the four clauses. -/
theorem test_witness_EveryWordDecodesByItsOp :
    (0xFFFF < 2 ^ (16 + 2) ∧ 0xFFFF / 2 ^ 16 = 0) ∧ (0x10000 / 2 ^ 16 = 1 ∧ 0x1FFFF / 2 ^ 16 = 1) ∧
    (2 * (0x17FFF % 2 ^ 16) < 2 ^ 16 ∧ ¬ 2 * (0x18000 % 2 ^ 16) < 2 ^ 16) ∧
    (0x20000 / 2 ^ 16 = 2 ∧ 0x2FFFF / 2 ^ 16 = 2) ∧ (0x30000 / 2 ^ 16 = 3 ∧ 0x3FFFF < 2 ^ (16 + 2)) := by decide

theorem test_witness_StepRunsTheDecodedWord :
    legal (waiting 0x11333 State.reset).cfg = true ∧ decode 16 0x11333 = .ok (.sample 4915) ∧
    decode 16 (0x11333 % 2 ^ 18) = .ok (.sample 4915) := by decide +kernel

theorem test_witness_RstStepResets :
    legal State.reset.cfg = true ∧
      ({ State.reset with input := [{ rst := true, word := 0x3ABCD }] } : State).input =
        [{ rst := true, word := 0x3ABCD }] := by decide +kernel

theorem test_witness_IllegalConfigurationIsRefused :
    legal Cfg.small = true ∧ legal { Cfg.default with NOISE_T := 0 } = false ∧
    legal { Cfg.default with TOL_ZERO := 6 } = true ∧ legal { Cfg.default with TOL_ZERO := 10 } = false ∧
    legal { Cfg.default with SILENCE_CYCLE := 65534 } = true ∧
    legal { Cfg.default with SILENCE_CYCLE := 65535 } = false ∧
    legal { Cfg.default with SILENCE_CYCLE := 28 } = true ∧ legal { Cfg.default with SILENCE_CYCLE := 27 } = false := by
  decide +kernel

/-- A number at the limit of the port, and one below it. -/
theorem test_witness_OversizedNumberIsRefused :
    (waiting 0x40000 State.reset).input = [{ rst := false, word := 0x40000 }] ∧
      2 ^ (State.reset.cfg.SAMPLE_W + 2) ≤ 0x40000 ∧ ¬ 2 ^ (State.reset.cfg.SAMPLE_W + 2) ≤ 0x3FFFF := by decide +kernel

/-- A reserved word sets `ill_op`; RESTART clears it; `rst` clears it. -/
theorem test_witness_IllOpIsSticky :
    after 0x30000 State.reset (fun t => t.ill_op) = true ∧
    after 0x20000 { State.reset with ill_op := true } (fun t => !t.ill_op) = true ∧
    (match step { State.reset with ill_op := true, input := [{ rst := true, word := 0 }] } with
      | .next t => !t.ill_op
      | .fault _ => false
      | .refused _ => false) = true := by decide +kernel

theorem test_witness_SampleCompletes : ({ State.reset with bptr := 65536 } : State).bptr.toNat < 65537 := by decide

/-- The last entry exists, and the next one does not. -/
theorem test_witness_SampleFaultsOnlyPastTheBuffer :
    exec (.sample (-100)) { eighth .readingData false with bptr := 65537, blen := 0 } =
      .fault .bufferIndexOutOfRange ∧
    ∃ t, exec (.sample (-100)) { eighth .readingData false with bptr := 65536, blen := 0 } = .next t :=
  ⟨rfl, _, rfl⟩

/-- Gated at both ends of the gate, of the same sign at its edge, saturated, and saturated at `SILENCE_CYCLE + 1`. -/
theorem test_witness_SampleWithoutEdgeCounts :
    NoEdge 19 (measured .synWait 5) ∧ NoEdge (-19) (measured .synWait 5) ∧ NoEdge 20 (measured .synWait 5) ∧
      ¬ DeclaresSilence 19 (measured .synWait 5) ∧ ¬ DeclaresSilence 0 (measured .searchingPilot 65535) ∧
      ¬ DeclaresSilence 0
        { measured .synWait 65535 with cfg := { Cfg.default with SILENCE_CYCLE := 65534 } } := by
  unfold DeclaresSilence NoEdge; decide +kernel

theorem test_witness_SeedStartsTheHalfPulse :
    Seeds 20 (State.resetWith Cfg.small) ∧ Seeds (-20) (State.resetWith Cfg.small) := by unfold Seeds; decide +kernel

/-- Each of the six clauses, at a gated sample and at one of the same sign. -/
theorem test_witness_SilenceByPhase :
    (∀ p : Phase, DeclaresSilence 0 (measured p 4096) ∧ DeclaresSilence 100 (measured p 4096)) ∧
    (reading (measured .readingHeader 4096) ∧ (measured .readingHeader 4096).half_pend = false) ∧
    (DeclaresSilence 0 { measured .readingData 4096 with half_pend := true } ∧
      reading { measured .readingData 4096 with half_pend := true }) ∧
    (DeclaresSilence 0 { measured .synWait 65534 with cfg := { Cfg.default with SILENCE_CYCLE := 65534 } } ∧
      ∃ t, exec (.sample 0) { measured .synWait 65534 with cfg := { Cfg.default with SILENCE_CYCLE := 65534 } } =
        .next t) := by
  unfold DeclaresSilence NoEdge
  exact ⟨fun p => by cases p <;> decide +kernel, by decide +kernel, by decide +kernel, by decide +kernel, _, rfl⟩

/-- Two runs, seeded and joined to the half-pulse held before them. -/
theorem test_witness_SquareWaveIsMeasured :
    legal Cfg.small = true ∧ SquareRuns Cfg.small.NOISE_T Cfg.small.SILENCE_CYCLE true [[-20], [20, 100]] ∧
    (State.resetWith Cfg.small).have_prev = false ∧
    (measured .searchingPilot 5).have_prev = true ∧ (measured .searchingPilot 5).prev_neg ≠ true := by
  unfold SquareRuns SquareRuns SquareRuns; decide +kernel

/-- A reachable state whose next edge measures one sample. -/
theorem test_witness_PulseLengthIsBounded :
    ∃ s, Reachable s ∧ (edgeDetect (-100) s).pulse = some 1 := by
  refine ⟨{ State.resetWith Cfg.small with pos := 1, have_prev := true, cnt := 1 },
    .step _ _ (.present _ { rst := false, word := 0x10064 } (.reset Cfg.small (by decide +kernel))) rfl, rfl⟩

theorem test_witness_LookupTableIsTheClassifier :
    (∀ k : Category, expectedCount Cfg.default k + tolerance Cfg.default k < 29) ∧ 28 < 29 ∧ 29 ≤ 29 ∧
    ∃ t, step (waiting 0 State.reset) = .next t :=
  ⟨fun k => by cases k <;> decide +kernel, by decide, by decide, _, rfl⟩

theorem test_witness_TestOrderNeverMatters : legal Cfg.default = true := by decide +kernel

/-- One short of the threshold, two short, and at the counter's top. -/
theorem test_witness_PilotPulseCountsAndLocks :
    (∀ n : BitVec 16, EdgeAt (-100) { measured .searchingPilot 27 with pilot_cnt := n }) ∧
    Measures .pilot (measured .searchingPilot 26) ∧ Measures .pilot (measured .searchingPilot 28) ∧
    (4 ≤ min ((3 : BitVec 16).toNat + 1) 65535 ∧ min ((2 : BitVec 16).toNat + 1) 65535 < 4 ∧
      4 ≤ min ((65535 : BitVec 16).toNat + 1) 65535) ∧ Cfg.small.PILOT_LOCK_HDR = 4 ∧ Cfg.small.PILOT_LOCK_DATA = 2 := by
  refine ⟨fun n => ⟨(by decide : 20 ≤ 100), rfl, (by decide : false ≠ true)⟩, ?_⟩
  unfold Measures; decide +kernel

/-- No run; the budget just spent; the budget just kept; the top of the counter. -/
theorem test_witness_BadPulseSpendsTheBudget :
    EdgeAt (-100) (measured .searchingPilot 25) ∧ ¬ Measures .pilot (measured .searchingPilot 25) ∧
    (measured .searchingPilot 25).pilot_cnt = 0 ∧ (Cfg.small.BAD_PULSE_BUDGET < (2 : BitVec 8).toNat + 1) ∧
    ((1 : BitVec 8).toNat + 1 ≤ Cfg.small.BAD_PULSE_BUDGET) ∧ (254 : BitVec 8).toNat < 255 := by
  unfold EdgeAt Measures; decide +kernel

theorem test_witness_LockedPilotAndSynOn :
    EdgeAt (-100) (measured .pilotLocked 27) ∧ Measures .pilot (measured .pilotLocked 27) ∧
    EdgeAt (-100) (measured .pilotLocked 9) ∧ ¬ Measures .pilot (measured .pilotLocked 9) ∧
    Measures .synOn (measured .pilotLocked 9) := by unfold EdgeAt Measures; decide +kernel

theorem test_witness_SynOffStartsABlock :
    EdgeAt (-100) (measured .synWait 10) ∧ Measures .synOff (measured .synWait 10) ∧
    Measures .synOff { measured .synWait 8 with hdr_valid := true } := by unfold EdgeAt Measures; decide +kernel

/-- The four phases; an error at tolerance 0, and a discard at tolerance 1. -/
theorem test_witness_UnacceptedPulse :
    EdgeAt (-100) (measured .pilotLocked 22) ∧ Unaccepts (measured .pilotLocked 22) ∧
    Unaccepts (measured .synWait 7) ∧ Unaccepts (measured .readingHeader 9) ∧ Unaccepts (measured .readingData 27) ∧
    Cfg.small.UNCLASS_TOL ≤ (measured .synWait 7).unclass_cnt.toNat ∧
    Unaccepts { measured .synWait 7 with cfg := { Cfg.small with UNCLASS_TOL := 1 } } ∧
    (0 : BitVec 8).toNat < 1 := by
  unfold EdgeAt Unaccepts Measures
  exact ⟨by decide +kernel, .inl (by decide +kernel), .inr (.inl (by decide +kernel)),
    .inr (.inr (by decide +kernel)), .inr (.inr (by decide +kernel)), by decide +kernel,
    .inr (.inl (by decide +kernel)), by decide⟩

/-- A first half, a mismatch and a matching second half, of either category. -/
theorem test_witness_HalfPulsesMakeBits :
    EdgeAt (-100) (measured .readingHeader 10) ∧ TakesBit false (measured .readingHeader 10) ∧
    TakesBit true (measured .readingData 21) ∧
    TakesBit false { measured .readingData 12 with half_pend := true, half_one := true } ∧
    TakesBit true { measured .readingData 23 with half_pend := true, half_one := true, bitpos := 6 } := by
  unfold EdgeAt TakesBit Measures; decide +kernel

theorem test_witness_SentBitsRebuildTheByte : State.reset.bitpos = 0 ∧ State.reset.sh = 0 := by decide

/-- The byte a sample completes in a state of the witnesses below. -/
theorem completes_eighth (p : Phase) (b : Bool) (hp : p = .readingHeader ∨ p = .readingData) (sh : BitVec 8)
    (bptr blen : BitVec 17) (xsum : BitVec 8) (hv : Bool) (buf : Memory) :
    CompletesByte (-100)
      { eighth p b with sh := sh, bptr := bptr, blen := blen, xsum := xsum, hdr_valid := hv, buf := buf }
      (BitVec.ofNat 8 (2 * sh.toNat + b.toNat)) := by
  refine ⟨⟨(by decide : 20 ≤ 100), rfl, (by decide : false ≠ true)⟩, hp, rfl, ?_, rfl, rfl⟩
  unfold TakesBit Measures eighth measured
  cases b <;> simp only <;> decide +kernel

/-- The second byte, and the last entry of the buffer. -/
theorem test_witness_MiddleByteIsStored :
    CompletesByte (-100) { eighth .readingHeader true with sh := 3, bptr := 1, blen := 19 } 7 ∧
    CompletesByte (-100) { eighth .readingData true with sh := 3, bptr := 65536, blen := 19 } 7 ∧
    (1 : BitVec 17) ≠ 0 ∧ (1 : BitVec 17) + 1 ≠ 19 ∧ (65536 : BitVec 17).toNat < 65537 :=
  ⟨completes_eighth .readingHeader true (.inl rfl) 3 1 19 0 false [],
    completes_eighth .readingData true (.inr rfl) 3 65536 19 0 false [], by decide, by decide, by decide⟩

/-- 0x00; 0xFF with a held header; 0xFF without; 0x01. -/
theorem test_witness_TypeByteFramesTheBlock :
    CompletesByte (-100) (eighth .readingData false) 0x00 ∧
    CompletesByte (-100) { eighth .readingHeader true with sh := 0x7F, hdr_valid := true } 0xFF ∧
    CompletesByte (-100) { eighth .readingHeader true with sh := 0x7F } 0xFF ∧
    CompletesByte (-100) (eighth .readingHeader true) 0x01 ∧ (eighth .readingHeader true).bptr = 0 :=
  ⟨completes_eighth .readingData false (.inr rfl) 0 0 0 0 false [],
    completes_eighth .readingHeader true (.inl rfl) 0x7F 0 0 0 true [],
    completes_eighth .readingHeader true (.inl rfl) 0x7F 0 0 0 false [],
    completes_eighth .readingHeader true (.inl rfl) 0 0 0 0 false [], rfl⟩

/-- The nineteenth byte of a header block whose XOR so far is 2, and the byte is 1. -/
theorem test_witness_ChecksumMismatchRejects :
    CompletesByte (-100) { eighth .readingHeader true with bptr := 18, blen := 19, xsum := 2 } 1 ∧
    (18 : BitVec 17) + 1 = 19 ∧ (2 : Byte) ^^^ 1 ≠ 0 :=
  ⟨completes_eighth .readingHeader true (.inl rfl) 0 18 19 2 false [], by decide, by decide⟩

/-- The eighteen bytes a header block has before its checksum. -/
def headerBytes : Memory := (List.range 18).map (fun i => (i, BitVec.ofNat 8 (i + 1)))

theorem test_witness_GoodHeaderIsLatched :
    CompletesByte (-100)
      { eighth .readingHeader true with bptr := 18, blen := 19, xsum := 1, buf := headerBytes } 1 ∧
    (1 : Byte) ^^^ 1 = 0 ∧
    (∀ i < 18, 1 ≤ i → (headerBytes.write 18 1).read? i = some (BitVec.ofNat 8 (i + 1))) :=
  ⟨completes_eighth .readingHeader true (.inl rfl) 0 18 19 1 false headerBytes, by decide, by decide +kernel⟩

theorem test_witness_GoodDataCompletes :
    CompletesByte (-100) { eighth .readingData true with bptr := 65536, blen := 65537, xsum := 1, hdr_valid := true } 1 ∧
    (65536 : BitVec 17) + 1 = 65537 ∧ (1 : Byte) ^^^ 1 = 0 ∧ (65537 : BitVec 17).toNat = (65535 : BitVec 16).toNat + 2 :=
  ⟨completes_eighth .readingData true (.inr rfl) 0 65536 65537 1 true [], by decide, by decide, by decide⟩

/-- A state about to read a data block of `n` payload bytes, with older bytes in its first and third entries. -/
def holding (n : BitVec 16) : State :=
  { measured .readingData 1 with hdr_valid := true, hdr_len := n, buf := [(0, 9), (2, 9)] }

/-- One state and payload that meet every hypothesis, for the empty payload and for the longest. -/
theorem test_witness_DataBlockCompletes :
    (∃ (s : State) (payload : List Byte), payload = [] ∧ reading s ∧ s.hdr_valid = true ∧
      payload.length = s.hdr_len.toNat ∧ s.bptr = 0 ∧ s.xsum = 0) ∧
    (∃ (s : State) (payload : List Byte), payload.length = 65535 ∧ reading s ∧ s.hdr_valid = true ∧
      payload.length = s.hdr_len.toNat ∧ s.bptr = 0 ∧ s.xsum = 0) :=
  ⟨⟨holding 0, [], rfl, .inr rfl, rfl, rfl, rfl, rfl⟩,
    ⟨holding 65535, List.replicate 65535 0, List.length_replicate, .inr rfl, rfl, List.length_replicate, rfl, rfl⟩⟩

theorem test_witness_HeaderBlockLatches :
    reading { measured .readingData 1 with hdr_valid := true } ∧ 65535 ≤ 65535 ∧
      (measured .readingData 1).bptr = 0 ∧ (measured .readingData 1).xsum = 0 := ⟨.inr rfl, by decide, rfl, rfl⟩

/-- The first payload byte and the checksum byte, of a header block and of an empty data block. -/
theorem test_witness_CorruptedByteIsDetected :
    reading (measured .readingData 1) ∧ (headerPayload 0 [] 0 0 0).length = 17 ∧
    (1 ≤ 1 ∧ 18 < 17 + 2) ∧ (1 < ([] : List Byte).length + 2) ∧ (0x80 : Byte) ≠ 0 ∧
    (reading (holding 0) ∧ (holding 0).hdr_valid = true ∧ ([] : List Byte).length = (holding 0).hdr_len.toNat ∧
      (holding 0).bptr = 0 ∧ (holding 0).xsum = 0) :=
  ⟨.inr rfl, by decide, by decide, by decide, by decide, .inr rfl, rfl, rfl, rfl, rfl⟩

/-- An edge in COMPLETE; RESTART and `rst` leave it. -/
theorem test_witness_CompleteAbsorbsEveryInput :
    (EdgeAt (-20) (measured .complete 4096) ∧ (measured .complete 4096).phase = .complete) ∧
    after 0x20000 (measured .complete 27) (fun t => decide (t.phase ≠ .complete)) = true ∧
    (match step { measured .complete 27 with input := [{ rst := true, word := 0 }] } with
      | .next t => decide (t.phase ≠ .complete)
      | .fault _ => false
      | .refused _ => false) = true := by unfold EdgeAt; decide +kernel

/-- The events of the sample −100 on `s`. -/
def eventsAfter (s : State) : List EventWord :=
  match exec (.sample (-100)) s with
  | .next t => eventsOnPorts t
  | .fault _ => []
  | .refused _ => []

/-- Each of the seven lists. -/
theorem test_witness_SevenEventLists :
    eventsAfter (measured .searchingPilot 27) = [] ∧
    eventsAfter { measured .searchingPilot 27 with pilot_cnt := 3 } = [1] ∧
    eventsAfter (measured .pilotLocked 22) = [4 + 2 * 8] ∧
    eventsAfter { eighth .readingHeader true with bptr := 1, blen := 19 } = [3 + 1 * 256 + 1 * 65536] ∧
    eventsAfter { eighth .readingHeader true with bptr := 18, blen := 19 } = [3 + 1 * 256 + 18 * 65536, 4] ∧
    eventsAfter { eighth .readingHeader true with bptr := 18, blen := 19, xsum := 1, buf := headerBytes } =
      [3 + 1 * 256 + 18 * 65536, 2] ∧
    eventsAfter { eighth .readingData true with bptr := 11, blen := 12, xsum := 1, hdr_len := 10 } =
      [3 + 1 * 256 + 11 * 65536, 5 + 10 * 65536] := by decide +kernel

/-- Every code is raised: a mismatch, a mismatched pair, an unaccepted pulse, silence, a bad type byte. -/
theorem test_witness_ErrorsExactlyAsTabled :
    eventsAfter { eighth .readingHeader true with bptr := 18, blen := 19 } = [3 + 1 * 256 + 18 * 65536, wordError 0] ∧
    eventsAfter { measured .readingData 11 with half_pend := true, half_one := true } = [wordError 1] ∧
    eventsAfter (measured .synWait 7) = [wordError 2] ∧
    eventsAfter { measured .readingData 4096 with prev_neg := true } = [wordError 3] ∧
    eventsAfter (eighth .readingHeader true) = [3 + 1 * 256, wordError 4] ∧
    (measured .complete 22).phase = .complete := by decide +kernel

/-- An error of a sample that completes no byte, and of one that does. -/
theorem test_witness_ErrorRestartsTheSearch :
    ((∃ t, exec (.sample (-100)) (measured .synWait 7) = .next t ∧ wordError 2 ∈ eventsOnPorts t) ∧
      ¬ ∃ b, CompletesByte (-100) (measured .synWait 7) b) ∧
    ((∃ t, exec (.sample (-100)) { eighth .readingHeader true with bptr := 18, blen := 19 } = .next t ∧
        wordError 0 ∈ eventsOnPorts t) ∧
      CompletesByte (-100) { eighth .readingHeader true with bptr := 18, blen := 19 } 1) :=
  ⟨⟨⟨_, rfl, by decide +kernel⟩, fun ⟨_, h⟩ => by rcases h.2.1 with h | h <;> cases h⟩,
    ⟨_, rfl, by decide +kernel⟩, completes_eighth .readingHeader true (.inl rfl) 0 18 19 0 false []⟩

/-- An error that saturates the count, and a step with no error. -/
theorem test_witness_ErrorLogFollowsTheEvents :
    (∃ t, exec (.sample (-100)) { measured .synWait 7 with err_cnt := 65535 } = .next t ∧
      wordError 2 ∈ eventsOnPorts t) ∧
    (∃ t, exec (.sample (-100)) (measured .synWait 9) = .next t ∧ ∀ code < 8, wordError code ∉ eventsOnPorts t) :=
  ⟨⟨_, rfl, by decide +kernel⟩, ⟨_, rfl, by decide +kernel⟩⟩

/-- A HEADER event, RESTART, and neither. -/
theorem test_witness_HeaderRegistersChangeTogether :
    wordHeader ∈ eventsAfter { eighth .readingHeader true with bptr := 18, blen := 19, xsum := 1, buf := headerBytes } ∧
    (∃ t, exec (.restart 0) (measured .synWait 9) = .next t) ∧ (∃ t, exec (.idle 0) (measured .synWait 9) = .next t) :=
  ⟨by decide +kernel, ⟨_, rfl⟩, ⟨_, rfl⟩⟩

/-- A sample that completes a byte, and one that does not. -/
theorem test_witness_OnlyACompletedByteIsStored :
    (∃ t, exec (.sample (-100)) { eighth .readingHeader true with bptr := 1, blen := 19 } = .next t) ∧
    CompletesByte (-100) { eighth .readingHeader true with bptr := 1, blen := 19 } 1 ∧
    ¬ CompletesByte (-100) (measured .synWait 9) 1 :=
  ⟨⟨_, rfl⟩, completes_eighth .readingHeader true (.inl rfl) 0 1 19 0 false [], fun h => by
    rcases h.2.1 with h | h <;> cases h⟩

theorem test_witness_ConfigurationNeverChanges : ∃ t, step (waiting 0x20000 State.reset) = .next t := ⟨_, rfl⟩

/-- The last entry, and the first address past it. -/
theorem test_witness_BufferPortReads :
    (65536 : BitVec 17).toNat < 65537 ∧ ({ State.reset with buf := [(65536, 7)] } : State).buf.read? 65536 = some 7 ∧
    65537 ≤ (65537 : BitVec 17).toNat := by decide +kernel

theorem test_witness_StatusPortMap :
    ({ State.reset with cnt := 65535 } : State).cnt < 2 ^ State.reset.cfg.CNT_W ∧ State.reset.cfg.CNT_W ≤ 32 := by
  decide +kernel

theorem test_witness_StimulusRunLengths : 1 ≤ Cfg.default.TSTATE_HZ := by decide +kernel

theorem test_witness_RoundTrip :
    ([] : List Byte).length ≤ 65535 ∧ (List.replicate 65535 (0 : Byte)).length ≤ 65535 :=
  ⟨by decide, by rw [List.length_replicate]⟩

/-- The invariant says nothing of the waiting pins. -/
theorem inv_with_input {s : State} (h : Inv s) (ps : List HostInput) : Inv { s with input := ps } :=
  { rules := ⟨h.rules.phaseLegal, h.rules.bitsIdle, h.rules.blockIdle, h.rules.blockLength, h.rules.blockUntyped,
      h.rules.completeHolds, h.rules.syncFlags, h.rules.armedCount, h.rules.searching, h.rules.unaccepted⟩
    legalCfg := h.legalCfg, cntFits := h.cntFits, armedBelowSilence := h.armedBelowSilence, halfIdle := h.halfIdle
    shiftFits := h.shiftFits, headerFrame := h.headerFrame, dataFrame := h.dataFrame, bufferWf := h.bufferWf
    written := h.written, checksum := h.checksum, errorLog := h.errorLog, ports := h.ports }

/-- A locked detector one sample into a half-pulse meets the invariant. -/
theorem locked_inv : Inv { measured .pilotLocked 1 with pilot_cnt := 4 } := by
  have hr : ¬ reading { measured .pilotLocked 1 with pilot_cnt := 4 } := by rintro (h | h) <;> cases h
  refine ⟨⟨by decide, fun _ => ⟨rfl, rfl, rfl, rfl⟩, fun _ => ⟨rfl, rfl, rfl⟩, ⟨.inl rfl, fun h => absurd rfl h⟩,
    fun _ h => absurd h hr, fun h => (by cases h), ⟨⟨fun h => (by cases h), ?_⟩, ⟨fun h => (by cases h), ?_⟩⟩,
    fun _ => Nat.le_refl 1, fun h => (by cases h), Nat.zero_le _⟩, by decide +kernel, by decide +kernel,
    fun _ => by decide +kernel, fun _ => rfl, by decide, fun h => (by cases h), fun h => (by cases h), by decide,
    fun i h => absurd h (Nat.not_lt_zero i), by decide, by decide, by decide⟩
  · rintro (h | h | h)
    · cases h
    · exact absurd h hr
    · cases h
  · rintro (h | h)
    · exact absurd h hr
    · cases h

theorem test_witness_ResetMeetsInv : legal Cfg.small = true := by decide +kernel

theorem test_witness_StepKeepsInv : ∃ s t, Inv s ∧ s.phase = .pilotLocked ∧ step s = .next t :=
  ⟨_, _, inv_with_input locked_inv [{ rst := false, word := 0x1FF9C }], rfl, rfl⟩

theorem test_witness_ReachableStatesMeetR54 : ∃ s, Reachable s ∧ s.have_prev = true :=
  ⟨{ State.resetWith Cfg.small with pos := 1, have_prev := true, cnt := 1 },
    .step _ _ (.present _ { rst := false, word := 0x10064 } (.reset Cfg.small (by decide +kernel))) rfl, rfl⟩

theorem test_witness_InvariantStatesNeverStop :
    ∃ s, Inv s ∧ inputFits s ∧ s.input = [{ rst := false, word := 0x3FFFF }, { rst := true, word := 0x40000 }] :=
  ⟨_, inv_with_input locked_inv _, by unfold inputFits; decide +kernel, rfl⟩

theorem test_witness_UnarmedDetectorIsIdle :
    UnarmedIdle (measured .pilotLocked 1) ∧ ∃ t, step (waiting 0x10000 (measured .pilotLocked 1)) = .next t :=
  ⟨fun h => (by cases h), _, rfl⟩

theorem test_witness_SilenceResynchronises :
    ∃ s, Inv s ∧ UnarmedIdle s ∧ s.phase ≠ .complete ∧ s.cfg.SILENCE_CYCLE < 4097 :=
  ⟨_, locked_inv, fun h => (by cases h), fun h => (by cases h), by decide⟩

theorem test_witness_RestartForgetsTheSession :
    (∃ t, exec (.restart 0xFFFF) (measured .complete 3) = .next t) ∧
    ∃ u evs, (measured .complete 3).cfg = (State.resetWith Cfg.small).cfg ∧ 65535 < 2 ^ Cfg.small.SAMPLE_W ∧
      feed ({ rst := true, word := 0 } :: wordPins [0x11333, 0x3ABCD]) (State.resetWith Cfg.small) = .next (u, evs) :=
  ⟨⟨_, rfl⟩, _, _, rfl, by decide, rfl⟩

theorem test_witness_ChunkInvariance :
    ∃ u evs, State.reset.input = [] ∧ feed (wordPins [0x0FFFF, 0x11333, 0x00000, 0x1ECCD]) State.reset = .next (u, evs) :=
  ⟨_, _, rfl, rfl⟩

end Sys2Proof.Tests
end

/-! ### What a legal configuration is (00_scope.md R13) -/

namespace Sys2Proof.Proofs.Scope

open Sys2Proof.Config Sys2Proof.Machine

theorem mem_categories (k : Category) : k ∈ categories := by
  cases k <;> decide

theorem categories_all_iff (p : Category → Bool) : categories.all p = true ↔ ∀ k, p k = true :=
  List.all_eq_true.trans ⟨fun h k => h k (mem_categories k), fun h k _ => h k⟩

/-- The bound check of `disjointWindows` says what R13 (c) and (d) say of sets of counts: if the bounds overlap, the
larger of the two first counts (0 at least) lies in both windows. -/
theorem disjointWindows_iff (c : Cfg) (j k : Category) :
    disjointWindows c j k = true ↔ ¬ ∃ n, inWindow c j n = true ∧ inWindow c k n = true := by
  simp only [disjointWindows, decide_eq_true_eq, inWindow_iff]
  unfold windowEnd
  constructor
  · rintro h ⟨n, hj, hk⟩
    omega
  · intro h
    by_contra hlap
    refine h ⟨max (expectedCount c j - tolerance c j) (expectedCount c k - tolerance c k), ?_, ?_⟩ <;> omega

/-- `legal` clause by clause, condition (b) holding of every `Nat`. -/
theorem legal_iff (c : Cfg) : legal c = true ↔
    1 ≤ c.NOISE_T ∧
    (∀ k : Category, 0 ≤ tolerance c k) ∧
    (¬ ∃ n, inWindow c .zero n = true ∧ inWindow c .one n = true) ∧
    (¬ ∃ n, inWindow c .pilot n = true ∧ inWindow c .synOn n = true) ∧
    (1 ≤ c.PILOT_LOCK_HDR ∧ c.PILOT_LOCK_HDR ≤ 65535 ∧ 1 ≤ c.PILOT_LOCK_DATA ∧ c.PILOT_LOCK_DATA ≤ 65535) ∧
    c.SILENCE_CYCLE + 1 ≤ 2 ^ c.CNT_W - 1 ∧
    (∀ k : Category, expectedCount c k + tolerance c k < 2 ^ c.CNT_W - 1) ∧
    (c.BAD_PULSE_BUDGET ≤ 254 ∧ c.UNCLASS_TOL ≤ 255) ∧
    1 ≤ c.FS ∧
    (∀ k : Category, expectedCount c k + tolerance c k ≤ c.SILENCE_CYCLE) := by
  simp only [legal, Bool.and_eq_true, and_assoc, decide_eq_true_eq, disjointWindows_iff, categories_all_iff,
    Nat.zero_le, implies_true, true_and]
  rfl -- `windowEnd` is the sum R13 (g) and (j) write

theorem legal_default : legal Cfg.default = true := by
  decide +kernel

theorem step_of_illegal {s : State} (h : legal s.cfg = false) : step s = .refused .illegalConfiguration := by
  simp only [step, h, Bool.not_false, if_true]

/-- Settles O8: `legal` is R13's list, the windows read as sets of counts. -/
theorem illegalConfigurationIsRefused : Obligations.IllegalConfigurationIsRefused :=
  ⟨legal_iff, legal_default, fun _ => step_of_illegal⟩

end Sys2Proof.Proofs.Scope

/-! ### One step -/

namespace Sys2Proof.Proofs.Steps

open Sys2Proof.Config Sys2Proof.Machine

-- The witness tests above leave dozens of proofs waiting for the kernel, each on a thread of its own, and the memory
-- limit of the check has no room for one thread more. This first lemma lets them all come to wait, and is then
-- elaborated in line, so that what follows starts when they are done. The first lemma of a later part is in line for
-- the same reason: few proofs wait at a time.
set_option Elab.async false in
theorem exec_idle (d : Nat) (s : State) : exec (.idle d) s = .next (setSlots [] s) := by
  sleep 20000
  rfl

theorem exec_restart (d : Nat) (s : State) : exec (.restart d) s = .next (setSlots [] (resetRegisters s)) := rfl

theorem exec_reserved (d : Nat) (s : State) :
    exec (.reserved d) s = .next (setSlots [] { s with ill_op := true }) := rfl

/-- The state with `ps` for the pins to come (log 14). -/
noncomputable def withInput (ps : List HostInput) (s : State) : State := { s with input := ps }

theorem step_nil {s : State} (hl : legal s.cfg = true) (hin : s.input = []) : step s = .next s := by
  rw [step, hl, hin]
  rfl

theorem step_cons {p : HostInput} {rest : List HostInput} {s : State} (hl : legal s.cfg = true)
    (hin : s.input = p :: rest) : step s = runPins p (withInput rest s) := by
  rw [step, hl, hin]
  rfl

theorem runWord_next {w : Nat} {s t : State} (h : runWord w s = .next t) :
    ∃ i, decode s.cfg.SAMPLE_W w = .ok i ∧ exec i s = .next t := by
  unfold runWord at h
  cases hd : decode s.cfg.SAMPLE_W w with
  | ok i => exact ⟨i, rfl, by rwa [hd] at h⟩
  | error e =>
    rw [hd] at h
    cases h

theorem runPins_next {p : HostInput} {s t : State} (h : runPins p s = .next t) :
    (p.rst = true ∧ t = applyRst s) ∨ (p.rst = false ∧ runWord p.word s = .next t) := by
  unfold runPins at h
  cases hr : p.rst
  · exact .inr ⟨rfl, by rwa [hr] at h⟩
  · rw [hr] at h
    exact .inl ⟨rfl, (Host.Outcome.next.inj h).symm⟩

/-- What a step does: nothing with no pins waiting, else `rst`, or the instruction the waiting word decodes to, on the
rest of the queue (40_host_operations.md R120; 70_reset_and_hazards.md R333). -/
theorem step_next_cases {s t : State} (h : step s = .next t) :
    (s.input = [] ∧ t = s) ∨
    ∃ p rest, s.input = p :: rest ∧
      ((p.rst = true ∧ t = applyRst (withInput rest s)) ∨
       (p.rst = false ∧ ∃ i, decode s.cfg.SAMPLE_W p.word = .ok i ∧ exec i (withInput rest s) = .next t)) := by
  have hl := legal_of_step h
  cases hin : s.input with
  | nil => exact .inl ⟨rfl, (Host.Outcome.next.inj ((step_nil hl hin).symm.trans h)).symm⟩
  | cons p rest =>
    exact .inr ⟨p, rest, rfl, (runPins_next ((step_cons hl hin).symm.trans h)).imp_right (And.imp_right runWord_next)⟩

end Sys2Proof.Proofs.Steps

/-! ### Events on the ports, as words (30_encoding.md R97, R98) -/

namespace Sys2Proof.Proofs.EventWords

open Sys2Proof Sys2Proof.Machine

set_option Elab.async false in
theorem eventsOnPorts_setSlots {evs : List Event} (s : State) (h : evs.length ≤ 2) :
    eventsOnPorts (setSlots evs s) = evs.map eventWord := by
  rcases evs with _ | ⟨e, _ | ⟨e', _ | ⟨e'', evs⟩⟩⟩
  · rfl
  · rfl
  · rfl
  · exact absurd h (Nat.not_le_of_lt (Nat.le_add_left 3 evs.length))

/-- The kind of an event, the low three bits of its word (30_encoding.md R98). -/
def kindOf : Event → BitVec 3
  | .pilotLocked => 1
  | .header => 2
  | .byte _ _ => 3
  | .error _ => 4
  | .complete _ => 5

theorem eventWord_setWidth (e : Event) : (eventWord e).setWidth 3 = kindOf e := by
  cases e <;> exact BitVec.setWidth_append_eq_right

theorem wordError_setWidth : ∀ code < 8, (wordError code).setWidth 3 = 4 := by decide

theorem wordError_inj : ∀ a < 8, ∀ b < 8, wordError a = wordError b → a = b := by decide

/-- Only the HEADER event has HEADER's word. -/
theorem eventWord_eq_wordHeader_iff (e : Event) : eventWord e = wordHeader ↔ e = .header := by
  refine ⟨fun h => ?_, fun h => h ▸ eventWord_header⟩
  have hk : kindOf e = 2 := by rw [← eventWord_setWidth, h]; rfl
  cases e with
  | header => rfl
  | pilotLocked => cases hk
  | byte i v => cases hk
  | error c => cases hk
  | complete n => cases hk

/-- Only an ERROR event of that code has the word of an error code. -/
theorem eventWord_eq_wordError_iff (e : Event) {code : Nat} (hc : code < 8) :
    eventWord e = wordError code ↔ ∃ c, e = .error c ∧ (errorCode c).toNat = code := by
  constructor
  · intro h
    have hk : kindOf e = 4 := by rw [← eventWord_setWidth, h, wordError_setWidth code hc]
    cases e with
    | error c => exact ⟨c, rfl, wordError_inj _ (errorCode c).isLt _ hc (by rw [← eventWord_error, h])⟩
    | pilotLocked => cases hk
    | header => cases hk
    | byte i v => cases hk
    | complete n => cases hk
  · rintro ⟨c, rfl, rfl⟩
    exact eventWord_error c

theorem wordHeader_mem_map_iff (evs : List Event) : wordHeader ∈ evs.map eventWord ↔ .header ∈ evs := by
  simp [eventWord_eq_wordHeader_iff]

theorem wordError_mem_map_iff (evs : List Event) {code : Nat} (hc : code < 8) :
    wordError code ∈ evs.map eventWord ↔ ∃ c, .error c ∈ evs ∧ (errorCode c).toNat = code := by
  simp only [List.mem_map, eventWord_eq_wordError_iff _ hc]
  constructor
  · rintro ⟨_, hm, c, rfl, hc⟩
    exact ⟨c, hm, hc⟩
  · rintro ⟨c, hm, hc⟩
    exact ⟨_, hm, c, rfl, hc⟩

end Sys2Proof.Proofs.EventWords

/-! ### The registers of the session: the error log, the header and `ill_op` (10_state.md R50 to R52) -/

namespace Sys2Proof.Proofs.Session

open Sys2Proof Sys2Proof.Machine Sys2Proof.Proofs.Steps Sys2Proof.Proofs.EventWords

/-- The error log is the same (10_state.md R51). -/
def SameLog (t s : State) : Prop := t.err_seen = s.err_seen ∧ t.last_err = s.last_err ∧ t.err_cnt = s.err_cnt

/-- The header registers are the same (10_state.md R50). -/
def SameHeader (t s : State) : Prop :=
  t.hdr_valid = s.hdr_valid ∧ t.hdr_type = s.hdr_type ∧ t.hdr_name = s.hdr_name ∧ t.hdr_len = s.hdr_len ∧
    t.hdr_p1 = s.hdr_p1 ∧ t.hdr_p2 = s.hdr_p2

/-- What no SAMPLE writes is the same: the configuration, the waiting pins and `ill_op`. -/
def SameHostSide (t s : State) : Prop := t.cfg = s.cfg ∧ t.input = s.input ∧ t.ill_op = s.ill_op

/-- All of these are the same. -/
def SameSession (t s : State) : Prop := SameHostSide t s ∧ SameLog t s ∧ SameHeader t s

/-- The work `r` on `s` has logged its ERROR event, or has none and has left the log alone. -/
def LogFollows (s : State) (r : State × List Event) : Prop :=
  (∃ e, (∀ c, .error c ∈ r.2 ↔ c = e) ∧ SameLog r.1 (logError e s)) ∨ ((∀ c, .error c ∉ r.2) ∧ SameLog r.1 s)

/-- The work `r` on `s` has a HEADER event and holds a header, or has none and has left the header alone. -/
def HeaderFollows (s : State) (r : State × List Event) : Prop :=
  (.header ∈ r.2 ∧ r.1.hdr_valid = true) ∨ (.header ∉ r.2 ∧ SameHeader r.1 s)

/-- Work of SAMPLE with at most `n` events, the session's registers following them. -/
def SampleWork (n : Nat) (s : State) (r : State × List Event) : Prop :=
  r.2.length ≤ n ∧ SameHostSide r.1 s ∧ LogFollows s r ∧ HeaderFollows s r

set_option Elab.async false in
theorem sameSession_refl (s : State) : SameSession s s :=
  ⟨⟨rfl, rfl, rfl⟩, ⟨rfl, rfl, rfl⟩, rfl, rfl, rfl, rfl, rfl, rfl⟩

/-! #### The kinds of work -/

/-- Work that leaves the session's registers alone and tells of no error and no header. -/
theorem sampleWork_quiet {n : Nat} {s t : State} {evs : List Event} (hs : SameSession t s) (hn : evs.length ≤ n)
    (he : ∀ c, .error c ∉ evs) (hd : .header ∉ evs) : SampleWork n s (t, evs) :=
  ⟨hn, hs.1, .inr ⟨he, hs.2.1⟩, .inr ⟨hd, hs.2.2⟩⟩

/-- Work with no event. -/
theorem sampleWork_keep {n : Nat} {s t : State} (hs : SameSession t s) : SampleWork n s (t, []) :=
  sampleWork_quiet hs (Nat.zero_le n) (fun _ => List.not_mem_nil) List.not_mem_nil

theorem sampleWork_raise (e : ErrCode) (s : State) : SampleWork 1 s (raise e s) :=
  ⟨Nat.le_refl 1, (sameSession_refl s).1, .inl ⟨e, by simp [raise_snd], (sameSession_refl (logError e s)).2.1⟩,
    .inr ⟨by simp [raise_snd], (sameSession_refl s).2.2⟩⟩

theorem sampleWork_headerDone (s : State) : SampleWork 1 s (headerDone s) :=
  ⟨Nat.le_refl 1, (sameSession_refl s).1, .inr ⟨by simp [headerDone], (sameSession_refl s).2.1⟩,
    .inl ⟨List.mem_singleton_self _, rfl⟩⟩

theorem sampleWork_mono {m n : Nat} {s : State} {r : State × List Event} (hmn : m ≤ n) (h : SampleWork m s r) :
    SampleWork n s r :=
  ⟨h.1.trans hmn, h.2⟩

/-- The answer of a rule that has one. -/
theorem sampleWork_of_ok {w : Work} {s : State} {r x : State × List Event} (he : w = .ok x) (h : w = .ok r)
    (hx : SampleWork 1 s x) : SampleWork 2 s r :=
  Except.ok.inj (he.symm.trans h) ▸ sampleWork_mono (Nat.le_succ 1) hx

/-- A BYTE event in front is neither an error nor a header. -/
theorem sampleWork_cons_byte {s : State} {r : State × List Event} (h : SampleWork 1 s r) (i : BitVec 17) (v : Byte) :
    SampleWork 2 s (r.1, .byte i v :: r.2) := by
  obtain ⟨hn, hh, hl, hd⟩ := h
  refine ⟨Nat.succ_le_succ hn, hh, ?_, ?_⟩
  · simpa [LogFollows] using hl
  · simpa [HeaderFollows] using hd

/-! #### Each rule of SAMPLE -/

set_option Elab.async false in
theorem sampleWork_protocolSilence (s : State) : SampleWork 1 s (protocolSilence s) := by
  rcases protocolSilence_cases s with ⟨_, he⟩ | ⟨_, _, he | ⟨_, he⟩⟩ | ⟨_, he⟩ <;> rw [he]
  · exact sampleWork_keep (sameSession_refl s)
  · exact sampleWork_raise _ s
  · exact sampleWork_raise _ s
  · exact sampleWork_keep (sameSession_refl s)

theorem sampleWork_unaccepted (s : State) : SampleWork 1 s (unaccepted s) := by
  rcases unaccepted_cases s with ⟨_, he⟩ | ⟨_, he⟩ <;> rw [he]
  · exact sampleWork_keep (sameSession_refl s)
  · exact sampleWork_raise _ s

theorem sampleWork_pilotPulse (s : State) : SampleWork 1 s (pilotPulse s) := by
  rcases pilotPulse_cases s with ⟨_, he⟩ | ⟨_, he⟩ <;> rw [he]
  · exact sampleWork_quiet (sameSession_refl s) (Nat.le_refl 1) (by simp) (by simp)
  · exact sampleWork_keep (sameSession_refl s)

theorem sampleWork_badPulse (s : State) : SampleWork 1 s (badPulse s, []) := by
  rcases badPulse_cases s with ⟨_, he⟩ | ⟨_, _, he⟩ | ⟨_, _, he⟩ <;> rw [he] <;>
    exact sampleWork_keep (sameSession_refl s)

theorem sampleWork_searchPilot (C : ClassVector) (s : State) : SampleWork 1 s (searchPilot C s) := by
  unfold searchPilot
  split
  · exact sampleWork_pilotPulse s
  · exact sampleWork_badPulse s

theorem sampleWork_pilotLocked (C : ClassVector) (s : State) : SampleWork 1 s (pilotLocked C s) := by
  rcases pilotLocked_cases C s with ⟨_, he⟩ | ⟨_, _, he⟩ | ⟨_, _, he⟩ <;> rw [he]
  · exact sampleWork_keep (sameSession_refl s)
  · exact sampleWork_keep (sameSession_refl s)
  · exact sampleWork_unaccepted s

theorem sampleWork_synWait (C : ClassVector) (s : State) : SampleWork 1 s (synWait C s) := by
  rcases synWait_cases C s with ⟨_, he⟩ | ⟨_, he⟩ <;> rw [he]
  · exact sampleWork_keep (sameSession_refl s)
  · exact sampleWork_unaccepted s

theorem sampleWork_blockEnd (s : State) : SampleWork 1 s (blockEnd s) := by
  rcases blockEnd_cases s with ⟨_, he⟩ | ⟨_, _, he⟩ | ⟨_, _, _, he⟩ | ⟨_, _, _, he⟩ <;> rw [he]
  · exact sampleWork_keep (sameSession_refl s)
  · exact sampleWork_raise _ s
  · exact sampleWork_headerDone s
  · exact sampleWork_quiet (sameSession_refl s) (Nat.le_refl 1) (by simp) (by simp)

theorem sampleWork_blockByte (i : BitVec 17) (v : Byte) (s : State) : SampleWork 1 s (blockByte i v s) := by
  rcases blockByte_cases i v s with ⟨_, _, he⟩ | ⟨_, _, _, he⟩ | ⟨_, _, _, he⟩ | ⟨_, he⟩ <;> rw [he]
  · exact sampleWork_blockEnd { s with phase := .readingHeader, blen := 19 }
  · exact sampleWork_blockEnd { s with phase := .readingData, blen := s.hdr_len.setWidth 17 + 2 }
  · exact sampleWork_raise _ s
  · exact sampleWork_blockEnd s

theorem sampleWork_byteDone {v : Byte} {s : State} {r : State × List Event} (h : byteDone v s = .ok r) :
    SampleWork 2 s r := by
  obtain ⟨_, rfl⟩ := (byteDone_ok_iff v s r).1 h
  have hblock := sampleWork_blockByte s.bptr v (countByte v { s with buf := s.buf.write s.bptr.toNat v })
  exact sampleWork_cons_byte hblock s.bptr v

theorem sampleWork_shiftBit {b : Bool} {s : State} {r : State × List Event} (h : shiftBit b s = .ok r) :
    SampleWork 2 s r := by
  rcases shiftBit_cases b s with ⟨_, he⟩ | ⟨_, he⟩
  · exact sampleWork_byteDone (s := { s with bitpos := 0, sh := 0 }) (he.symm.trans h)
  · exact sampleWork_of_ok he h (sampleWork_keep (sameSession_refl s))

theorem sampleWork_acceptHalf {k : Bool} {s : State} {r : State × List Event} (h : acceptHalf k s = .ok r) :
    SampleWork 2 s r := by
  rcases acceptHalf_cases k s with ⟨_, he⟩ | ⟨_, _, he⟩ | ⟨_, _, he⟩
  · exact sampleWork_of_ok he h (sampleWork_keep (sameSession_refl s))
  · exact sampleWork_shiftBit (s := { s with half_pend := false, half_one := false }) (he.symm.trans h)
  · exact sampleWork_of_ok he h (sampleWork_raise _ s)

theorem sampleWork_readBits {C : ClassVector} {s : State} {r : State × List Event} (h : readBits C s = .ok r) :
    SampleWork 2 s r := by
  rcases readBits_cases C s with ⟨_, he⟩ | ⟨k, _, he⟩
  · exact sampleWork_of_ok he h (sampleWork_unaccepted s)
  · exact sampleWork_acceptHalf (s := { s with unclass_cnt := 0 }) (he.symm.trans h)

theorem sampleWork_protocolPulse {C : ClassVector} {s : State} {r : State × List Event}
    (h : protocolPulse C s = .ok r) : SampleWork 2 s r := by
  rcases protocolPulse_cases C s with ⟨_, he⟩ | ⟨_, he⟩ | ⟨_, he⟩ | ⟨_, he⟩ | ⟨_, he⟩
  · exact sampleWork_of_ok he h (sampleWork_searchPilot C s)
  · exact sampleWork_of_ok he h (sampleWork_pilotLocked C s)
  · exact sampleWork_of_ok he h (sampleWork_synWait C s)
  · exact sampleWork_readBits (he.symm.trans h)
  · exact sampleWork_of_ok he h (sampleWork_keep (sameSession_refl s))

/-! #### Each instruction -/

set_option Elab.async false in
theorem work_of_finish {w : Work} {s t : State} (h : finish w = .next t) (hw : ∀ r, w = .ok r → SampleWork 2 s r) :
    ∃ r, SampleWork 2 s r ∧ t = setSlots r.2 r.1 := by
  obtain ⟨u, evs, hok, ht⟩ := (finish_next_iff w t).1 h
  exact ⟨(u, evs), hw _ hok, ht⟩

theorem execSample_work {v : Int} {s t : State} (h : execSample v s = .next t) :
    ∃ r, SampleWork 2 s r ∧ t = setSlots r.2 r.1 := by
  rcases execSample_cases v s with ⟨_, _, he⟩ | ⟨_, _, he⟩ | ⟨_, _, he⟩ | ⟨_, he⟩
  · exact work_of_finish (he.symm.trans h) fun _ hr => sampleWork_of_ok rfl hr (sampleWork_keep (sameSession_refl s))
  · exact work_of_finish (he.symm.trans h) fun _ hr => sampleWork_of_ok rfl hr (sampleWork_protocolSilence _)
  · exact work_of_finish (he.symm.trans h) fun _ hr => sampleWork_of_ok rfl hr (sampleWork_keep (sameSession_refl s))
  · exact work_of_finish (he.symm.trans h) fun _ => sampleWork_protocolPulse (s := startPulse v (advance s))

/-- What an instruction does to the registers of the session: RESTART resets them; any other leaves the error log and
the header to its events, and `ill_op` to a reserved word. -/
theorem exec_session {i : Instr} {s t : State} (h : exec i s = .next t) :
    ((∃ d, i = .restart d) ∧ t = setSlots [] (resetRegisters s)) ∨
    ((∀ d, i ≠ .restart d) ∧ ∃ r, t = setSlots r.2 r.1 ∧ r.2.length ≤ 2 ∧ LogFollows s r ∧ HeaderFollows s r ∧
      (r.1.ill_op = s.ill_op ∨ r.1.ill_op = true ∧ ∃ d, i = .reserved d)) := by
  have hnone : LogFollows s (s, []) ∧ HeaderFollows s (s, []) := (sampleWork_keep (n := 0) (sameSession_refl s)).2.2
  cases i with
  | idle d =>
    have ht := Host.Outcome.next.inj ((exec_idle d s).symm.trans h)
    exact .inr ⟨fun _ => nofun, (s, []), ht.symm, Nat.zero_le 2, hnone.1, hnone.2, .inl rfl⟩
  | sample v =>
    obtain ⟨r, ⟨hn, ⟨_, _, hill⟩, hl, hd⟩, ht⟩ := execSample_work h
    exact .inr ⟨fun _ => nofun, r, ht, hn, hl, hd, .inl hill⟩
  | restart d => exact .inl ⟨⟨d, rfl⟩, (Host.Outcome.next.inj ((exec_restart d s).symm.trans h)).symm⟩
  | reserved d =>
    have ht := Host.Outcome.next.inj ((exec_reserved d s).symm.trans h)
    exact .inr ⟨fun _ => nofun, ({ s with ill_op := true }, []), ht.symm, Nat.zero_le 2, hnone.1, hnone.2,
      .inr ⟨rfl, d, rfl⟩⟩

/-! #### The statements -/

/-- Settles O14: only a reserved word sets `ill_op`, and only RESTART and `rst` reset it. -/
theorem illOpIsSticky : Obligations.IllOpIsSticky := by
  intro s t hst hne
  rcases step_next_cases hst with ⟨_, ht⟩ | ⟨p, rest, hin, ⟨hr, ht⟩ | ⟨hr, i, hd, hx⟩⟩
  · exact absurd (congrArg State.ill_op ht).symm hne
  · have hill : t.ill_op = false := congrArg State.ill_op ht
    exact ⟨p, rest, hin, fun h => absurd (hill.symm.trans h) Bool.false_ne_true, fun _ => .inl hr⟩
  · refine ⟨p, rest, hin, ?_⟩
    rcases exec_session hx with ⟨⟨d, hi⟩, ht⟩ | ⟨_, r, ht, _, _, _, hkept | ⟨hset, d, hi⟩⟩
    · have hill : t.ill_op = false := congrArg State.ill_op ht
      exact ⟨fun h => absurd (hill.symm.trans h) Bool.false_ne_true, fun _ => .inr ⟨d, hi ▸ hd⟩⟩
    · exact absurd ((congrArg State.ill_op ht).trans hkept).symm hne
    · have hill : t.ill_op = true := (congrArg State.ill_op ht).trans hset
      exact ⟨fun _ => ⟨hr, d, hi ▸ hd⟩, fun h => absurd (h.symm.trans hill) Bool.false_ne_true⟩

/-- Settles O45: the log follows the events of the step's work, and the ports show those events. -/
theorem errorLogFollowsTheEvents : Obligations.ErrorLogFollowsTheEvents := by
  intro i s t ht
  rcases exec_session ht with ⟨⟨d, hi⟩, rfl⟩ | ⟨_, r, rfl, hn, hl, _⟩
  · exact ⟨fun _ _ hm => absurd hm List.not_mem_nil, fun _ hne => absurd hi (hne d)⟩
  · rw [eventsOnPorts_setSlots _ hn]
    rcases hl with ⟨e, hev, hseen, hlast, hcnt⟩ | ⟨hev, hsame⟩
    · refine ⟨fun code hc hm => ?_, fun hno => ?_⟩
      · obtain ⟨c, hce, hcode⟩ := (wordError_mem_map_iff r.2 hc).1 hm
        obtain rfl := (hev c).1 hce
        exact ⟨hseen, (congrArg BitVec.toNat hlast).trans hcode,
          (congrArg BitVec.toNat hcnt).trans (satInc16_toNat s.err_cnt)⟩
      · have hlt : (errorCode e).toNat < 8 := (errorCode e).isLt
        exact absurd ((wordError_mem_map_iff r.2 hlt).2 ⟨e, (hev e).2 rfl, rfl⟩) (hno _ hlt)
    · refine ⟨fun code hc hm => ?_, fun _ _ => hsame⟩
      obtain ⟨c, hce, _⟩ := (wordError_mem_map_iff r.2 hc).1 hm
      exact absurd hce (hev c)

/-- Settles O46: the header follows the events of the step's work, and the ports show those events. -/
theorem headerRegistersChangeTogether : Obligations.HeaderRegistersChangeTogether := by
  intro i s t ht
  rcases exec_session ht with ⟨hi, rfl⟩ | ⟨hi, r, rfl, hn, _, hd, _⟩
  · exact .inr (.inl ⟨List.not_mem_nil, hi, rfl, rfl, rfl, rfl, rfl, rfl⟩)
  · rw [eventsOnPorts_setSlots _ hn, wordHeader_mem_map_iff]
    exact hd.imp And.symm fun ⟨hev, hsame⟩ => .inr ⟨hev, hi, hsame⟩

end Sys2Proof.Proofs.Session

/-! ### The invariant of 10_state.md R54, step by step -/

namespace Sys2Proof.Proofs.Invariant

open Sys2Proof.Config Sys2Proof.Machine Sys2Proof.Proofs.Steps

variable {s : State}

set_option Elab.async false in
theorem lockThreshold_pos (h : legal s.cfg = true) : 0 < lockThreshold s := by
  obtain ⟨hhdr, _, hdata, _⟩ := legal_thresholds h
  unfold lockThreshold
  split
  · exact hdata
  · exact hhdr

/-! #### Acquisition reset, errors and reset -/

/-- What outlives acquisition meets the invariant: the configuration, the edge detector, the buffer, the error log and
the ports. A state in the middle of a byte's work has this where it has not the whole of `Inv`. -/
def Base (s : State) : Prop := Machine.Inv (acqReset s)

/-- The acquisition registers are clear after their reset, whatever they held (60_exceptions.md R305). -/
theorem base_of_clauses (ha : s.have_prev = true → 1 ≤ s.cnt) (hl : legal s.cfg = true) (hc : s.cnt ≤ cntMax s.cfg)
    (hs : s.have_prev = true → s.cnt ≤ s.cfg.SILENCE_CYCLE) (hm : s.buf.wf)
    (he : s.last_err.toNat ≤ 4 ∧ (s.err_seen = false ↔ s.err_cnt = 0))
    (hp : (s.ev1_valid = true → s.ev0_valid = true) ∧ (s.ev0_valid = false → s.ev0_word = 0) ∧
      (s.ev1_valid = false → s.ev1_word = 0)) : Base s where
  rules :=
    { phaseLegal := Nat.zero_le _
      bitsIdle := fun _ => ⟨rfl, rfl, rfl, rfl⟩
      blockIdle := fun _ => ⟨rfl, rfl, rfl⟩
      blockLength := ⟨.inl rfl, fun h0 => absurd rfl h0⟩
      blockUntyped := fun _ _ => rfl
      completeHolds := by simp
      syncFlags := by simp
      armedCount := ha
      searching := fun _ => ⟨lockThreshold_pos hl, Nat.zero_le _⟩
      unaccepted := Nat.zero_le _ }
  legalCfg := hl
  cntFits := hc
  armedBelowSilence := hs
  halfIdle _ := rfl
  shiftFits := Nat.one_pos
  headerFrame := by simp
  dataFrame := by simp
  bufferWf := hm
  written := by simp
  checksum := rfl
  errorLog := he
  ports := hp

theorem base_of_inv (h : Machine.Inv s) : Base s :=
  base_of_clauses h.rules.armedCount h.legalCfg h.cntFits h.armedBelowSilence h.bufferWf h.errorLog h.ports

theorem inv_raise (e : ErrCode) (h : Base s) : Machine.Inv (raise e s).1 :=
  { h with
    rules := { h.rules with }
    errorLog := ⟨errorCode_toNat_le e, iff_of_false Bool.true_eq_false.mp (satInc16_ne_zero s.err_cnt)⟩ }

theorem inv_headerDone (h : Base s) : Machine.Inv (headerDone s).1 :=
  base_of_clauses h.rules.armedCount h.legalCfg h.cntFits h.armedBelowSilence h.bufferWf h.errorLog h.ports

/-- The reset registers over a buffer in canonical form: they are their own acquisition reset. -/
theorem inv_resetWith {c : Cfg} (m : Memory) (n : Nat) (ps : List HostInput) (hl : legal c = true) (hm : m.wf) :
    Machine.Inv { State.resetWith c with buf := m, draws := n, input := ps } :=
  base_of_clauses (s := { State.resetWith c with buf := m, draws := n, input := ps })
    (by simp [State.resetWith]) hl (Nat.zero_le _) (fun _ => Nat.zero_le _) hm ⟨Nat.zero_le _, iff_of_true rfl rfl⟩
    ⟨id, fun _ => rfl, fun _ => rfl⟩

theorem inv_resetRegisters (h : Machine.Inv s) : Machine.Inv (resetRegisters s) :=
  inv_resetWith s.buf s.draws s.input h.legalCfg h.bufferWf

theorem inv_applyRst (h : Machine.Inv s) : Machine.Inv (applyRst s) :=
  inv_resetWith [] s.draws s.input h.legalCfg Memory.wf_nil

/-- Settles O10: the reset state is written register by register, as the table is. -/
theorem resetValues : Obligations.ResetValues := fun _ => rfl

/-- Settles O53: the reset state is the acquisition reset of itself, and its buffer is empty. -/
theorem resetMeetsInv : Obligations.ResetMeetsInv := by
  have reset (c : Cfg) (hl : legal c = true) : Machine.Inv (State.resetWith c) := inv_resetWith [] 0 [] hl Memory.wf_nil
  exact ⟨reset, reset Cfg.default Scope.legal_default⟩

/-! #### Registers the invariant does not read, and the event ports -/

theorem inv_withInput (h : Machine.Inv s) (ps : List HostInput) : Machine.Inv (withInput ps s) :=
  { h with rules := { h.rules with } }

theorem inv_advance (h : Machine.Inv s) : Machine.Inv (advance s) := { h with rules := { h.rules with } }

theorem inv_setIllOp (h : Machine.Inv s) (b : Bool) : Machine.Inv { s with ill_op := b } :=
  { h with rules := { h.rules with } }

/-- Any event list leaves the ports as 30_encoding.md R97 asks. -/
theorem inv_setSlots (h : Machine.Inv s) (evs : List Event) : Machine.Inv (setSlots evs s) :=
  { h with
    rules := { h.rules with }
    ports := ⟨slotValid_zero_of_one evs, slotWord_of_invalid evs 0, slotWord_of_invalid evs 1⟩ }

theorem inv_finish {w : Work} {t : State} (hw : ∀ r, w = .ok r → Machine.Inv r.1) (h : finish w = .next t) :
    Machine.Inv t := by
  obtain ⟨r, evs, hr, rfl⟩ := (finish_next_iff w t).1 h
  exact inv_setSlots (hw _ hr) evs

theorem inv_setUnclass (h : Machine.Inv s) {x : BitVec 8} (hx : x.toNat ≤ s.cfg.UNCLASS_TOL) :
    Machine.Inv { s with unclass_cnt := x } :=
  { h with rules := { h.rules with unaccepted := hx } }

/-- The pilot registers matter while the search is on (10_state.md R54 (i)). -/
theorem inv_setPilot {n : BitVec 16} {b : BitVec 8} (h : Machine.Inv s)
    (hn : s.phase = .searchingPilot → n.toNat < lockThreshold s ∧ b.toNat ≤ badBudget s.cfg) :
    Machine.Inv { s with pilot_cnt := n, bad_cnt := b } :=
  { h with rules := { h.rules with searching := hn } }

/-! #### The edge detector and silence -/

set_option Elab.async false in
theorem silence_lt_cntMax (h : Machine.Inv s) : s.cfg.SILENCE_CYCLE < cntMax s.cfg := legal_silence_fits h.legalCfg

theorem inv_startPulse (v : Int) (h : Machine.Inv s) : Machine.Inv (startPulse v s) :=
  { h with
    rules := { h.rules with armedCount := fun _ => Nat.le_refl 1 }
    cntFits := show 0 < cntMax s.cfg from Nat.zero_lt_of_lt (silence_lt_cntMax h)
    armedBelowSilence := fun _ => legal_silence_pos h.legalCfg }

/-- A counted sample short of silence: an armed detector stands below `SILENCE_CYCLE` (41_edge_detector.md R147). -/
theorem inv_count (h : Machine.Inv s) (hd : silenceDue s = false) :
    Machine.Inv { s with cnt := cntInc s.cfg s.cnt } := by
  have hmax := silence_lt_cntMax h
  have hne : s.cnt ≠ s.cfg.SILENCE_CYCLE := fun hc =>
    Bool.false_ne_true (hd.symm.trans ((silenceDue_iff s).2 ⟨hc, hmax⟩))
  exact { h with
    rules := { h.rules with armedCount := fun _ => Nat.le_min.2 ⟨Nat.succ_pos _, Nat.zero_lt_of_lt hmax⟩ }
    cntFits := cntInc_le _ _
    armedBelowSilence := fun ha =>
      (Nat.min_le_left _ _).trans (Nat.lt_of_le_of_ne (h.armedBelowSilence ha) hne) }

theorem inv_disarm (h : Machine.Inv s) : Machine.Inv { s with cnt := cntInc s.cfg s.cnt, have_prev := false } :=
  { h with rules := { h.rules with armedCount := by simp }, cntFits := cntInc_le _ _, armedBelowSilence := by simp }

theorem inv_clearPilot (h : Machine.Inv s) : Machine.Inv { s with pilot_cnt := 0, bad_cnt := 0 } :=
  inv_setPilot h fun _ => ⟨lockThreshold_pos h.legalCfg, Nat.zero_le _⟩

theorem inv_protocolSilence (h : Machine.Inv s) : Machine.Inv (protocolSilence s).1 := by
  rcases protocolSilence_cases s with ⟨_, he⟩ | ⟨_, _, he | ⟨_, he⟩⟩ | ⟨_, he⟩ <;> rw [he]
  · exact inv_clearPilot h
  · exact inv_raise _ (base_of_inv h)
  · exact inv_raise _ (base_of_inv h)
  · exact h

/-! #### The phases before a block -/

set_option Elab.async false in
theorem inv_unaccepted (h : Machine.Inv s) : Machine.Inv (unaccepted s).1 := by
  rcases unaccepted_cases s with ⟨hlt, he⟩ | ⟨_, he⟩ <;> rw [he]
  · exact inv_setUnclass h ((Nat.mod_le _ _).trans hlt)
  · exact inv_raise _ (base_of_inv h)

theorem syncFlags_of_seeking (h : Machine.Inv s) (hs : s.phase = .searchingPilot ∨ s.phase = .pilotLocked) :
    s.syn_on = false ∧ s.syn_off = false := by
  obtain ⟨hon, hoff⟩ := h.rules.syncFlags
  rcases hs with hs | hs <;> simp [reading, hs] at hon hoff <;> exact ⟨hon, hoff⟩

/-- The phase and `syn_on` set. -/
noncomputable def withSeek (p : Phase) (on : Bool) (s : State) : State := { s with phase := p, syn_on := on }

section Seeking

variable {p : Phase} {on : Bool} (h : Machine.Inv s) (hs : s.phase = .searchingPilot ∨ s.phase = .pilotLocked)
  (hp : p = .pilotLocked ∧ on = false ∨ p = .synWait ∧ on = true)

include hp in
theorem not_reading_withSeek : ¬ reading (withSeek p on s) := by
  rcases hp with ⟨rfl, _⟩ | ⟨rfl, _⟩ <;> exact (·.elim (Phase.noConfusion ·) (Phase.noConfusion ·))

include h hs hp

theorem stateRules_withSeek : StateRules (withSeek p on s) := by
  have hr : ¬ reading s := by rcases hs with hs | hs <;> simp [reading, hs]
  have hoff := (syncFlags_of_seeking h hs).2
  have hblock := h.rules.blockIdle (hs.imp_right .inl)
  have hr' := not_reading_withSeek (s := s) hp
  have hsearch : p ≠ .searchingPilot := by rcases hp with ⟨rfl, _⟩ | ⟨rfl, _⟩ <;> decide
  have hdone : p ≠ .complete := by rcases hp with ⟨rfl, _⟩ | ⟨rfl, _⟩ <;> decide
  exact { h.rules with
    phaseLegal := phaseCode_toNat_le _
    bitsIdle := fun _ => h.rules.bitsIdle hr
    blockIdle := fun _ => hblock
    blockLength := ⟨h.rules.blockLength.1, fun _ hr => absurd hr hr'⟩
    blockUntyped := fun _ hr => absurd hr hr'
    completeHolds := fun hp' => absurd hp' hdone
    syncFlags := by rcases hp with ⟨rfl, rfl⟩ | ⟨rfl, rfl⟩ <;> simp [withSeek, reading, hoff]
    searching := fun hp' => absurd hp' hsearch }

/-- The phases before a block differ in `syn_on` and the pilot registers alone. -/
theorem inv_withSeek : Machine.Inv (withSeek p on s) :=
  have hr' := not_reading_withSeek (s := s) hp
  { h with
    rules := stateRules_withSeek h hs hp
    headerFrame := fun hp' => absurd (.inl hp') hr'
    dataFrame := fun hp' => absurd (.inr hp') hr' }

end Seeking

theorem inv_pilotPulse (h : Machine.Inv s) (hp : s.phase = .searchingPilot) : Machine.Inv (pilotPulse s).1 := by
  rcases pilotPulse_cases s with ⟨_, he⟩ | ⟨hlt, he⟩ <;> rw [he]
  · have hon : s.syn_on = false := (syncFlags_of_seeking h (.inl hp)).1
    have hlock := inv_setPilot (n := satInc16 s.pilot_cnt) (b := 0)
      (inv_withSeek h (.inl hp) (.inl ⟨rfl, rfl⟩)) (Phase.noConfusion ·)
    rwa [← hon] at hlock
  · exact inv_setPilot h fun _ => ⟨hlt, (h.rules.searching hp).2⟩

theorem inv_badPulse (h : Machine.Inv s) (hp : s.phase = .searchingPilot) : Machine.Inv (badPulse s) := by
  rcases badPulse_cases s with ⟨_, he⟩ | ⟨_, _, he⟩ | ⟨_, hb, he⟩ <;> rw [he]
  · exact h
  · exact inv_clearPilot h
  · exact inv_setPilot h fun _ => ⟨(h.rules.searching hp).1, hb⟩

theorem inv_searchPilot (C : ClassVector) (h : Machine.Inv s) (hp : s.phase = .searchingPilot) :
    Machine.Inv (searchPilot C s).1 := by
  unfold searchPilot
  split
  · exact inv_pilotPulse h hp
  · exact inv_badPulse h hp

theorem inv_pilotLocked (C : ClassVector) (h : Machine.Inv s) (hp : s.phase = .pilotLocked) :
    Machine.Inv (pilotLocked C s).1 := by
  rcases pilotLocked_cases C s with ⟨_, he⟩ | ⟨_, _, he⟩ | ⟨_, _, he⟩ <;> rw [he]
  · exact inv_setUnclass (x := 0) (inv_setPilot (n := satInc16 s.pilot_cnt) (b := s.bad_cnt) h (by simp [hp]))
      (Nat.zero_le _)
  · exact inv_setUnclass (x := 0) (inv_withSeek h (.inr hp) (.inr ⟨rfl, rfl⟩)) (Nat.zero_le _)
  · exact inv_unaccepted h

theorem reading_startBlock (s : State) : reading (startBlock s) := by cases hv : s.hdr_valid <;> simp [reading, hv]

theorem stateRules_startBlock (h : Machine.Inv s) (hp : s.phase = .synWait) : StateRules (startBlock s) := by
  have hon : s.syn_on = true := h.rules.syncFlags.1.2 (.inl hp)
  have hr := reading_startBlock s
  exact { h.rules with
    phaseLegal := phaseCode_toNat_le _
    bitsIdle := fun hn => absurd hr hn
    blockIdle := fun _ => ⟨rfl, rfl, rfl⟩
    blockLength := ⟨.inl rfl, fun h0 => absurd rfl h0⟩
    blockUntyped := fun _ _ => rfl
    completeHolds := by cases hv : s.hdr_valid <;> simp [hv]
    syncFlags := ⟨iff_of_true hon (.inr (.inl hr)), iff_of_true rfl (.inl hr)⟩
    searching := by cases hv : s.hdr_valid <;> simp [hv]
    unaccepted := Nat.zero_le _ }

theorem hdr_valid_of_startBlock (hd : (startBlock s).phase = .readingData) : s.hdr_valid = true := by
  cases hv : s.hdr_valid
  · simp [hv] at hd
  · rfl

theorem inv_startBlock (h : Machine.Inv s) (hp : s.phase = .synWait) : Machine.Inv (startBlock s) :=
  { h with
    rules := stateRules_startBlock h hp
    halfIdle := fun _ => rfl
    shiftFits := Nat.one_pos
    headerFrame := fun _ => .inl rfl
    dataFrame := fun hd => ⟨hdr_valid_of_startBlock hd, .inl rfl⟩
    written := by simp
    checksum := rfl }

theorem inv_synWait (C : ClassVector) (h : Machine.Inv s) (hp : s.phase = .synWait) : Machine.Inv (synWait C s).1 := by
  rcases synWait_cases C s with ⟨_, he⟩ | ⟨_, he⟩ <;> rw [he]
  · exact inv_startBlock h hp
  · exact inv_unaccepted h

/-! #### Bits, bytes and the block -/

/-- No bit of the next byte is in yet. -/
def ByteStart (s : State) : Prop := s.half_pend = false ∧ s.half_one = false ∧ s.bitpos = 0 ∧ s.sh = 0

/-- A block of type `p` has `n` bytes (45_block_checksum.md R242, R243). -/
def Framed (s : State) (p : Phase) (n : BitVec 17) : Prop :=
  (p = .readingHeader ∧ n = 19) ∨ (p = .readingData ∧ s.hdr_valid = true ∧ n.toNat = s.hdr_len.toNat + 2)

/-- The first `q` bytes of the block are in the buffer `m`, and `x` is their XOR (20_memory.md R70, R71;
45_block_checksum.md R246). -/
def Received (q : BitVec 17) (x : Byte) (m : Memory) : Prop :=
  m.wf ∧ (∀ i < q.toNat, (m.read? i).isSome = true) ∧ x = bufferXor m q.toNat

/-- The registers of the block set: its type and length, the bytes received, their XOR and the buffer. -/
noncomputable def withBlock (p : Phase) (n q : BitVec 17) (x : Byte) (m : Memory) (s : State) : State :=
  { s with phase := p, blen := n, bptr := q, xsum := x, buf := m }

set_option Elab.async false in
/-- A block that has its length is of its type. -/
theorem framed_of_inv (h : Machine.Inv s) (hr : reading s) (h0 : s.blen ≠ 0) : Framed s s.phase s.blen := by
  rcases hr with hp | hp
  · exact .inl ⟨hp, (h.headerFrame hp).resolve_left h0⟩
  · obtain ⟨hv, hlen⟩ := h.dataFrame hp
    exact .inr ⟨hp, hv, hlen.resolve_left h0⟩

theorem bptr_succ_toNat (hl : s.bptr.toNat < bufDepth) : (s.bptr + 1).toNat = s.bptr.toNat + 1 := by
  have hfit : s.bptr.toNat + 1 < 2 ^ 17 := (Nat.succ_le_of_lt hl).trans_lt (by decide)
  exact BitVec.toNat_add_of_lt hfit

/-- ByteDone receives one byte more (44_bit_byte_decoder.md R218). -/
theorem received_succ (v : Byte) (h : Machine.Inv s) (hl : s.bptr.toNat < bufDepth) :
    Received (s.bptr + 1) (s.xsum ^^^ v) (s.buf.write s.bptr.toNat v) := by
  refine ⟨Memory.wf_write v h.bufferWf hl, ?_, ?_⟩ <;> rw [bptr_succ_toNat hl]
  · intro i hi
    rw [Memory.read?_write]
    split
    · rfl
    · exact h.written i (Nat.lt_of_le_of_ne (Nat.le_of_lt_succ hi) ‹_›)
  · rw [bufferXor_write, h.checksum]

section Block

variable {p : Phase} {n q : BitVec 17} {x : Byte} {m : Memory} (h : Machine.Inv s) (hr : reading s)

include h

theorem base_withBlock (hm : m.wf) : Base (withBlock p n q x m s) :=
  base_of_clauses h.rules.armedCount h.legalCfg h.cntFits h.armedBelowSilence hm h.errorLog h.ports

include hr

theorem stateRules_dataDone (hb : ByteStart s) (hv : s.hdr_valid = true) (hn : n.toNat = s.hdr_len.toNat + 2) :
    StateRules (withBlock .complete n n x m s) :=
  { h.rules with
    phaseLegal := phaseCode_toNat_le _
    bitsIdle := fun _ => hb
    blockIdle := (·.elim (Phase.noConfusion ·) (·.elim (Phase.noConfusion ·) (Phase.noConfusion ·)))
    blockLength := ⟨.inr (.inr hn), fun _ hr' => hr'.elim (Phase.noConfusion ·) (Phase.noConfusion ·)⟩
    blockUntyped := fun _ hr' => hr'.elim (Phase.noConfusion ·) (Phase.noConfusion ·)
    completeHolds := fun _ => ⟨hv, rfl, hn⟩
    syncFlags := ⟨iff_of_true (h.rules.syncFlags.1.2 (.inr (.inl hr))) (.inr (.inr rfl)),
      iff_of_true (h.rules.syncFlags.2.2 (.inl hr)) (.inr rfl)⟩
    searching := (Phase.noConfusion ·) }

/-- A data block that is all in completes: it has the length of the held header (10_state.md R54 (f)). -/
theorem inv_dataDone (hm : Received n x m) (hb : ByteStart s) (hv : s.hdr_valid = true)
    (hn : n.toNat = s.hdr_len.toNat + 2) : Machine.Inv (withBlock .complete n n x m s) :=
  { h with
    rules := stateRules_dataDone h hr hb hv hn
    headerFrame := (Phase.noConfusion ·)
    dataFrame := (Phase.noConfusion ·)
    bufferWf := hm.1
    written := hm.2.1
    checksum := hm.2.2 }

omit h hr in
/-- A block under way is in neither of the other phases. -/
theorem phase_ne_of_framed {p' : Phase} (hf : Framed s p n) (h3 : p' ≠ .readingHeader) (h4 : p' ≠ .readingData) :
    p ≠ p' :=
  fun hp => hf.elim (fun hf => h3 (hp.symm.trans hf.1)) (fun hf => h4 (hp.symm.trans hf.1))

theorem stateRules_framed (hf : Framed s p n) (hlt : q.toNat < n.toNat) : StateRules (withBlock p n q x m s) := by
  have hr' : reading (withBlock p n q x m s) := hf.imp And.left And.left
  have hn0 : n ≠ 0 := fun h0 => absurd (h0 ▸ hlt : _ < (0 : BitVec 17).toNat) (Nat.not_lt_zero _)
  have h0 : p ≠ .searchingPilot := phase_ne_of_framed hf (by decide) (by decide)
  have h1 : p ≠ .pilotLocked := phase_ne_of_framed hf (by decide) (by decide)
  have h2 : p ≠ .synWait := phase_ne_of_framed hf (by decide) (by decide)
  have h5 : p ≠ .complete := phase_ne_of_framed hf (by decide) (by decide)
  exact { h.rules with
    phaseLegal := phaseCode_toNat_le _
    bitsIdle := fun hn => absurd hr' hn
    blockIdle := fun hp => absurd hp (not_or.2 ⟨h0, not_or.2 ⟨h1, h2⟩⟩)
    blockLength := ⟨hf.elim (fun hf => .inr (.inl hf.2)) (fun hf => .inr (.inr hf.2.2)), fun _ _ => hlt⟩
    blockUntyped := fun h => absurd h hn0
    completeHolds := fun hp => absurd hp h5
    syncFlags := ⟨iff_of_true (h.rules.syncFlags.1.2 (.inr (.inl hr))) (.inr (.inl hr')),
      iff_of_true (h.rules.syncFlags.2.2 (.inl hr)) (.inl hr')⟩
    searching := fun hp => absurd hp h0 }

/-- The block goes on. -/
theorem inv_framed (hm : Received q x m) (hf : Framed s p n) (hlt : q.toNat < n.toNat) :
    Machine.Inv (withBlock p n q x m s) :=
  { h with
    rules := stateRules_framed h hr hf hlt
    headerFrame := fun hp => hf.elim (fun hf => .inr hf.2) (fun hf => absurd (hp.symm.trans hf.1) (by decide))
    dataFrame := fun hp =>
      hf.elim (fun hf => absurd (hp.symm.trans hf.1) (by decide)) (fun hf => ⟨hf.2.1, .inr hf.2.2⟩)
    bufferWf := hm.1
    written := hm.2.1
    checksum := hm.2.2 }

/-- The block ends. -/
theorem inv_blockEnd (hm : Received q x m) (hf : Framed s p n) (hb : ByteStart s) (hle : q.toNat ≤ n.toNat) :
    Machine.Inv (blockEnd (withBlock p n q x m s)).1 := by
  have hbase : Base (withBlock p n q x m s) := base_withBlock h hm.1
  rcases blockEnd_cases (withBlock p n q x m s) with
    ⟨hne, he⟩ | ⟨_, _, he⟩ | ⟨_, _, _, he⟩ | ⟨heq, _, hp, he⟩ <;> rw [he]
  · exact inv_framed h hr hm hf (Nat.lt_of_le_of_ne hle fun h => hne (BitVec.eq_of_toNat_eq h))
  · exact inv_raise _ hbase
  · exact inv_headerDone hbase
  · obtain ⟨_, hv, hn⟩ := hf.resolve_left fun hf => hp hf.1
    obtain rfl : q = n := heq
    exact inv_dataDone (s := s) h hr hm hb hv hn

end Block

/-- The length of a data block does not wrap (45_block_checksum.md R243). -/
theorem dataLength_toNat (n : BitVec 16) : (n.setWidth 17 + 2).toNat = n.toNat + 2 := by
  have hlt : n.toNat + 2 < 2 ^ 17 := Nat.add_lt_of_lt_sub (n.isLt.trans (by decide))
  rw [BitVec.toNat_add, BitVec.toNat_setWidth_of_le (by decide)]
  exact Nat.mod_eq_of_lt hlt

theorem inv_byteDone {v : Byte} {r : State × List Event} (h : Machine.Inv s) (hr : reading s) (hb : ByteStart s)
    (hd : byteDone v s = .ok r) : Machine.Inv r.1 := by
  obtain ⟨hl, rfl⟩ := (byteDone_ok_iff v s r).1 hd
  have hq := bptr_succ_toNat hl
  have hm := received_succ v h hl
  change Machine.Inv (blockByte s.bptr v (withBlock s.phase s.blen (s.bptr + 1) (s.xsum ^^^ v) _ s)).1
  generalize s.bptr + 1 = q, s.xsum ^^^ v = x, s.buf.write s.bptr.toNat v = m at hq hm ⊢
  have h1 : s.bptr = 0 → q.toNat = 1 := fun h0 => hq.trans (congrArg (·.toNat + 1) h0)
  rcases blockByte_cases s.bptr v (withBlock s.phase s.blen q x m s) with
    ⟨h0, _, he⟩ | ⟨h0, _, hv, he⟩ | ⟨_, _, _, he⟩ | ⟨hne, he⟩ <;> rw [he]
  · exact inv_blockEnd (s := s) h hr hm (.inl ⟨rfl, rfl⟩) hb (h1 h0 ▸ by decide)
  · have hlen := dataLength_toNat s.hdr_len
    exact inv_blockEnd (s := s) h hr hm (.inr ⟨rfl, hv, hlen⟩) hb (h1 h0 ▸ hlen ▸ Nat.succ_pos _)
  · exact inv_raise _ (base_withBlock h hm.1)
  · have h0 : s.blen ≠ 0 := fun h0 => hne (h.rules.blockUntyped h0 hr)
    exact inv_blockEnd h hr hm (framed_of_inv h hr h0) hb (hq ▸ h.rules.blockLength.2 h0 hr)

/-- One more bit fits one place further on (44_bit_byte_decoder.md R216). -/
theorem shiftIn_fits {sh : BitVec 8} {n : BitVec 3} (b : Bool) (h : sh.toNat < 2 ^ n.toNat) (hn : n ≠ 7) :
    (shiftIn sh b).toNat < 2 ^ (n + 1).toNat := by
  have hn7 : n.toNat < 7 := Nat.lt_of_le_of_ne (Nat.le_of_lt_succ n.isLt) fun h => hn (BitVec.eq_of_toNat_eq h)
  have hs : (n + 1).toNat = n.toNat + 1 := BitVec.toNat_add_of_lt (Nat.succ_lt_succ hn7)
  rw [shiftIn_eq, BitVec.toNat_ofNat, hs, Nat.pow_succ' (n := n.toNat)]
  exact (Nat.mod_le _ _).trans_lt ((Nat.add_le_add_left b.toNat_le _).trans_lt (Nat.mul_le_mul_left 2 h))

/-- The bit registers may take any value that fits while a block is read. -/
theorem inv_setBits {p o : Bool} {n : BitVec 3} {sh : BitVec 8} (h : Machine.Inv s) (hr : reading s)
    (ho : p = false → o = false) (hf : sh.toNat < 2 ^ n.toNat) :
    Machine.Inv { s with half_pend := p, half_one := o, bitpos := n, sh := sh } :=
  { h with rules := { h.rules with bitsIdle := fun hn => absurd hr hn }, halfIdle := ho, shiftFits := hf }

/-- The answer of a rule that has one. -/
theorem inv_of_ok {w : Work} {x r : State × List Event} (he : w = .ok x) (h : w = .ok r) (hx : Machine.Inv x.1) :
    Machine.Inv r.1 :=
  Except.ok.inj (he.symm.trans h) ▸ hx

theorem inv_shiftBit {b : Bool} {r : State × List Event} (h : Machine.Inv s) (hr : reading s) (hp : s.half_pend = false)
    (hd : shiftBit b s = .ok r) : Machine.Inv r.1 := by
  rcases shiftBit_cases b s with ⟨_, he⟩ | ⟨h7, he⟩
  · exact inv_byteDone (inv_setBits (n := 0) (sh := 0) h hr h.halfIdle Nat.one_pos) hr ⟨hp, h.halfIdle hp, rfl, rfl⟩
      (he.symm.trans hd)
  · exact inv_of_ok he hd (inv_setBits h hr h.halfIdle (shiftIn_fits b h.shiftFits h7))

theorem inv_acceptHalf {k : Bool} {r : State × List Event} (h : Machine.Inv s) (hr : reading s)
    (hd : acceptHalf k s = .ok r) : Machine.Inv r.1 := by
  rcases acceptHalf_cases k s with ⟨_, he⟩ | ⟨_, _, he⟩ | ⟨_, _, he⟩
  · exact inv_of_ok he hd (inv_setBits h hr (Bool.noConfusion ·) h.shiftFits)
  · exact inv_shiftBit (inv_setBits h hr (fun _ => rfl) h.shiftFits) hr rfl (he.symm.trans hd)
  · exact inv_of_ok he hd (inv_raise _ (base_of_inv h))

theorem inv_readBits {C : ClassVector} {r : State × List Event} (h : Machine.Inv s) (hr : reading s)
    (hd : readBits C s = .ok r) : Machine.Inv r.1 := by
  rcases readBits_cases C s with ⟨_, he⟩ | ⟨k, _, he⟩
  · exact inv_of_ok he hd (inv_unaccepted h)
  · exact inv_acceptHalf (inv_setUnclass (x := 0) h (Nat.zero_le _)) hr (he.symm.trans hd)

theorem inv_protocolPulse {C : ClassVector} {r : State × List Event} (h : Machine.Inv s)
    (hd : protocolPulse C s = .ok r) : Machine.Inv r.1 := by
  rcases protocolPulse_cases C s with ⟨hp, he⟩ | ⟨hp, he⟩ | ⟨hp, he⟩ | ⟨hr, he⟩ | ⟨_, he⟩
  · exact inv_of_ok he hd (inv_searchPilot C h hp)
  · exact inv_of_ok he hd (inv_pilotLocked C h hp)
  · exact inv_of_ok he hd (inv_synWait C h hp)
  · exact inv_readBits h hr (he.symm.trans hd)
  · exact inv_of_ok he hd h

/-! #### Instructions and steps -/

theorem inv_execSample {v : Int} {t : State} (h : Machine.Inv s) (ht : execSample v s = .next t) : Machine.Inv t := by
  rcases execSample_cases v s with ⟨_, hd, he⟩ | ⟨_, _, he⟩ | ⟨_, _, he⟩ | ⟨_, he⟩
  · exact inv_finish (fun _ hr => inv_of_ok rfl hr (inv_count (inv_advance h) hd)) (he.symm.trans ht)
  · exact inv_finish (fun _ hr => inv_of_ok rfl hr (inv_protocolSilence (inv_disarm (inv_advance h))))
      (he.symm.trans ht)
  · exact inv_finish (fun _ hr => inv_of_ok rfl hr (inv_startPulse v (inv_advance h))) (he.symm.trans ht)
  · exact inv_finish (fun _ => inv_protocolPulse (inv_startPulse v (inv_advance h))) (he.symm.trans ht)

theorem inv_exec {i : Instr} {t : State} (h : Machine.Inv s) (ht : exec i s = .next t) : Machine.Inv t := by
  cases i with
  | idle d => exact Host.Outcome.next.inj ((exec_idle d s).symm.trans ht) ▸ inv_setSlots h []
  | sample v => exact inv_execSample h ht
  | restart d =>
    exact Host.Outcome.next.inj ((exec_restart d s).symm.trans ht) ▸ inv_setSlots (inv_resetRegisters h) []
  | reserved d =>
    exact Host.Outcome.next.inj ((exec_reserved d s).symm.trans ht) ▸ inv_setSlots (inv_setIllOp h true) []

theorem inv_step {t : State} (h : Machine.Inv s) (ht : step s = .next t) : Machine.Inv t := by
  rcases step_next_cases ht with ⟨_, rfl⟩ | ⟨p, rest, _, ⟨_, rfl⟩ | ⟨_, i, _, hx⟩⟩
  · exact h
  · exact inv_applyRst (inv_withInput h rest)
  · exact inv_exec (inv_withInput h rest) hx

/-- Settles O54: each arm of SAMPLE keeps the invariant, the error procedure and reset restore it, and the other words
touch nothing it reads. -/
theorem stepKeepsInv : Obligations.StepKeepsInv := fun _ _ => inv_step

theorem inv_of_reachable (h : Reachable s) : Machine.Inv s := by
  induction h with
  | reset c hl => exact resetMeetsInv.1 c hl
  | present s p _ ih => exact inv_withInput ih (s.input ++ [p])
  | step s t _ hst ih => exact inv_step ih hst

/-- Settles O55: the clauses of R54 are part of the invariant. -/
theorem reachableStatesMeetR54 : Obligations.ReachableStatesMeetR54 := fun _ h => (inv_of_reachable h).rules

end Sys2Proof.Proofs.Invariant

/-! ### The status port (10_state.md R60, R61) -/

namespace Sys2Proof.Proofs.StatusPort

open Sys2Proof Sys2Proof.Machine

set_option Elab.async false in
/-- The number of a concatenation: the high part stands above the bits of the low one. -/
theorem toNat_append_eq {m n : Nat} (hi : BitVec m) (lo : BitVec n) :
    (hi ++ lo).toNat = lo.toNat + 2 ^ n * hi.toNat := by
  rw [BitVec.toNat_append, ← Nat.shiftLeft_add_eq_or_of_lt lo.isLt, Nat.shiftLeft_eq, Nat.mul_comm, Nat.add_comm]

/-- A bit above the low part of a concatenation is a bit of the high part. -/
theorem getLsbD_append_of_le {m n k : Nat} (hi : BitVec m) (lo : BitVec n) (h : n ≤ k) :
    (hi ++ lo).getLsbD k = hi.getLsbD (k - n) := by
  rw [BitVec.getLsbD_append, if_neg (Nat.not_lt.2 h)]

theorem getLsbD_append_ofBool {m : Nat} (hi : BitVec m) (b : Bool) : (hi ++ BitVec.ofBool b).getLsbD 0 = b := by
  rw [BitVec.getLsbD_append, if_pos Nat.one_pos, BitVec.getLsbD_ofBool]
  rfl

/-- The one-bit fields of STATUS. -/
theorem statusWord_flags (s : State) :
    (statusWord s).getLsbD 3 = s.hdr_valid ∧ (statusWord s).getLsbD 4 = s.syn_on ∧
    (statusWord s).getLsbD 5 = s.syn_off ∧ (statusWord s).getLsbD 6 = s.half_pend ∧
    (statusWord s).getLsbD 7 = s.half_one ∧ (statusWord s).getLsbD 8 = s.have_prev ∧
    (statusWord s).getLsbD 9 = s.prev_neg ∧ (statusWord s).getLsbD 10 = s.ill_op ∧
    (statusWord s).getLsbD 14 = s.err_seen ∧ (statusWord s).getLsbD 18 = incomplete s := by
  simp only [statusWord, getLsbD_append_of_le, Nat.reduceLeDiff, Nat.reduceSub, getLsbD_append_ofBool, and_self]

/-- The wider fields of STATUS, and its unused bits. -/
theorem statusWord_fields (s : State) :
    (statusWord s).extractLsb' 0 3 = phaseCode s.phase ∧ (statusWord s).extractLsb' 11 3 = s.bitpos ∧
    (statusWord s).extractLsb' 15 3 = s.last_err ∧ (statusWord s).extractLsb' 19 13 = 0 := by
  simp only [statusWord, BitVec.extractLsb'_append_eq_of_le, Nat.reduceLeDiff, Nat.reduceSub,
    BitVec.extractLsb'_append_eq_right, BitVec.extractLsb'_eq_self, true_and]
  rfl

/-- A count that fits its width, a width of at most 32, is shown as it is (log 9). -/
theorem cntWord_toNat {s : State} (hc : s.cnt < 2 ^ s.cfg.CNT_W) (hw : s.cfg.CNT_W ≤ 32) :
    (cntWord s).toNat = s.cnt := by
  have h32 : 2 ^ s.cfg.CNT_W ≤ 2 ^ 32 := Nat.pow_le_pow_right Nat.two_pos hw
  rw [cntWord, BitVec.toNat_ofNat, Nat.mod_eq_of_lt hc, Nat.mod_eq_of_lt (hc.trans_le h32)]

/-- The bytes of a filename word, the first in the lowest bits. -/
theorem nameWord_bytes (a b c d : Byte) :
    (nameWord a b c d).extractLsb' 0 8 = a ∧ (nameWord a b c d).extractLsb' 8 8 = b ∧
    (nameWord a b c d).extractLsb' 16 8 = c ∧ (nameWord a b c d).extractLsb' 24 8 = d := by
  simp only [nameWord, BitVec.extractLsb'_append_eq_of_le, Nat.reduceLeDiff, Nat.reduceSub,
    BitVec.extractLsb'_append_eq_right, BitVec.extractLsb'_eq_self, and_self]

/-- The same, by number. -/
theorem nameWord_byte {x : Fin 4 → Byte} (k : Fin 4) :
    (nameWord (x 0) (x 1) (x 2) (x 3)).extractLsb' (8 * k.val) 8 = x k := by
  obtain ⟨h0, h1, h2, h3⟩ := nameWord_bytes (x 0) (x 1) (x 2) (x 3)
  exact Fin.cases h0 (Fin.cases h1 (Fin.cases h2 (Fin.cases h3 fun k => k.elim0))) k

/-- The three fields of PILOT. -/
theorem pilotWord_fields (u b : Byte) (p : BitVec 16) :
    (u ++ b ++ p).extractLsb' 0 16 = p ∧ (u ++ b ++ p).extractLsb' 16 8 = b ∧ (u ++ b ++ p).extractLsb' 24 8 = u := by
  simp only [BitVec.extractLsb'_append_eq_of_le, Nat.reduceLeDiff, Nat.reduceSub, BitVec.extractLsb'_append_eq_right,
    BitVec.extractLsb'_eq_self, and_self]

/-- Two registers under unused bits. -/
theorem toNat_two_fields {k m n : Nat} (hi : BitVec m) (lo : BitVec n) :
    (0#k ++ hi ++ lo).toNat = lo.toNat + 2 ^ n * hi.toNat := by
  simp only [toNat_append_eq, BitVec.toNat_ofNat, Nat.zero_mod, Nat.mul_zero, Nat.add_zero]

/-- A filename word of two bytes. -/
theorem nameWord_two_toNat (a b : Byte) : (nameWord a b 0 0).toNat = a.toNat + 256 * b.toNat :=
  toNat_two_fields (k := 16) b a

/-- Settles O50: each word is the concatenation of its registers. -/
theorem statusPortMap : Obligations.StatusPortMap := by
  intro s
  obtain ⟨hphase, hbitpos, hlast, hunused⟩ := statusWord_fields s
  obtain ⟨hvalid, hon, hoff, hpend, hone, hprev, hneg, hill, hseen, hinc⟩ := statusWord_flags s
  obtain ⟨hpilot, hbad, hunclass⟩ := pilotWord_fields s.unclass_cnt s.bad_cnt s.pilot_cnt
  refine ⟨hphase, hvalid, hon, hoff, hpend, hone, hprev, hneg, hill, hbitpos, hseen, hlast, hinc,
    hunused, rfl, cntWord_toNat, hpilot, hbad, hunclass, toNat_two_fields s.xsum s.sh,
    BitVec.toNat_setWidth_of_le (by decide), BitVec.toNat_setWidth_of_le (by decide),
    BitVec.toNat_setWidth_of_le (by decide), toNat_two_fields s.hdr_len s.hdr_type,
    BitVec.extractLsb'_append_eq_right, BitVec.extractLsb'_append_eq_left,
    nameWord_byte (x := fun k => s.hdr_name[k.val]'(k.isLt.trans (by decide))),
    nameWord_byte (x := fun k => s.hdr_name[4 + k.val]'((Nat.add_lt_add_left k.isLt 4).trans (by decide))),
    nameWord_two_toNat _ _, rfl, rfl, rfl⟩

end Sys2Proof.Proofs.StatusPort

/-! ### Event words and input words (30_encoding.md) -/

namespace Sys2Proof.Proofs.Encoding

open Sys2Proof.Machine

/-- The layout table of R98: each field is read back, and the reserved bits are 0. -/
theorem packEvent_fields (kind code : BitVec 3) (value : Byte) (index : BitVec 17) :
    (packEvent kind code value index).extractLsb' 6 2 = 0 ∧ (packEvent kind code value index).extractLsb' 33 31 = 0 ∧
    (packEvent kind code value index).extractLsb' 0 3 = kind ∧
    (packEvent kind code value index).extractLsb' 3 3 = code ∧
    (packEvent kind code value index).extractLsb' 8 8 = value ∧
    (packEvent kind code value index).extractLsb' 16 17 = index := by
  simp only [packEvent, BitVec.extractLsb'_append_eq_of_le, Nat.reduceLeDiff, Nat.reduceSub,
    BitVec.extractLsb'_append_eq_right, BitVec.extractLsb'_eq_self, and_self, and_true]
  exact ⟨rfl, rfl⟩

/-- Settles O5: the word of an event is packed from the fields the table names. -/
theorem eventWordFields : Obligations.EventWordFields := by
  intro e
  cases e with
  | pilotLocked => exact packEvent_fields 1 0 0 0
  | header => exact packEvent_fields 2 0 0 0
  | byte i v => exact packEvent_fields 3 0 v i
  | error c => cases c <;> exact packEvent_fields 4 _ 0 0
  | complete n => exact packEvent_fields 5 0 0 n

/-- Settles O4: the decoder run on the eight words of R111 and R122 to R125. -/
theorem specExampleWordsDecode : Obligations.SpecExampleWordsDecode := by
  unfold Obligations.SpecExampleWordsDecode
  decide +kernel

/-- The four rows of the decoder (R91). -/
theorem decodeWord_rows {sw : Nat} (w : InputWord sw) :
    (opField sw w = 0b00#2 → decodeWord sw w = .idle (dataField sw w).toNat) ∧
    (opField sw w = 0b01#2 → decodeWord sw w = .sample (dataField sw w).toInt) ∧
    (opField sw w = 0b10#2 → decodeWord sw w = .restart (dataField sw w).toNat) ∧
    (opField sw w = 0b11#2 → decodeWord sw w = .reserved (dataField sw w).toNat) := by
  refine ⟨fun h => ?_, fun h => ?_, fun h => ?_, fun h => ?_⟩ <;>
  · rw [decodeWord, h]
    rfl

theorem decode_of_lt {sw n : Nat} (hn : n < 2 ^ (sw + 2)) :
    decode sw n = .ok (decodeWord sw (BitVec.ofNat (sw + 2) n)) := if_pos hn

/-- The fields of the word of a number, as numbers. -/
theorem fields_ofNat {sw n : Nat} (hn : n < 2 ^ (sw + 2)) :
    opField sw (BitVec.ofNat (sw + 2) n) = BitVec.ofNat 2 (n / 2 ^ sw) ∧
    (dataField sw (BitVec.ofNat (sw + 2) n)).toNat = n % 2 ^ sw := by
  constructor
  · apply BitVec.eq_of_toNat_eq
    rw [opField, BitVec.extractLsb'_toNat, BitVec.toNat_ofNat, Nat.mod_eq_of_lt hn, Nat.shiftRight_eq_div_pow,
      BitVec.toNat_ofNat]
  · rw [dataField, BitVec.extractLsb'_toNat, BitVec.toNat_ofNat, Nat.mod_eq_of_lt hn, Nat.shiftRight_zero]

/-- Settles O3: the op field of `n` is `n / 2^sw`, its data field `n % 2^sw`. -/
theorem everyWordDecodesByItsOp : Obligations.EveryWordDecodesByItsOp := by
  intro sw n hn
  obtain ⟨hop, hdata⟩ := fields_ofNat hn
  obtain ⟨hidle, hsample, hrestart, hreserved⟩ := decodeWord_rows (BitVec.ofNat (sw + 2) n)
  rw [decode_of_lt hn]
  refine ⟨Nat.div_lt_of_lt_mul (by rwa [Nat.pow_add] at hn), fun h => ?_, fun h => ?_, fun h => ?_, fun h => ?_⟩ <;>
    rw [h] at hop
  · rw [hidle hop, hdata]
  · rw [hsample hop, BitVec.toInt_eq_toNat_cond, hdata]
    split <;> simp
  · rw [hrestart hop, hdata]
  · rw [hreserved hop, hdata]

/-- No instruction is refused: each arm ends by closing its step. -/
theorem exec_ne_refused (i : Instr) (s : State) (r : Refusal) : exec i s ≠ .refused r := by
  cases i with
  | idle d => exact finish_ne_refused (.ok (s, [])) r
  | sample v => exact finish_ne_refused (afterEdgeDetect (edgeDetect v (advance s))) r
  | restart d => exact finish_ne_refused (.ok (resetRegisters s, [])) r
  | reserved d => exact finish_ne_refused (.ok ({ s with ill_op := true }, [])) r

theorem runWord_refused_iff (w : Nat) (s : State) :
    runWord w s = .refused .notAnInputWord ↔ 2 ^ (s.cfg.SAMPLE_W + 2) ≤ w := by
  rcases Nat.lt_or_ge w (2 ^ (s.cfg.SAMPLE_W + 2)) with hw | hw
  · rw [runWord, decode_of_lt hw]
    exact iff_of_false (exec_ne_refused _ s _) (Nat.not_le.2 hw)
  · rw [runWord, decode, if_neg (Nat.not_lt.2 hw)]
    exact iff_of_true rfl hw

/-- Settles O9: the step runs the waiting number as a word, and only a number that is no word is refused. -/
theorem oversizedNumberIsRefused : Obligations.OversizedNumberIsRefused := by
  intro s w rest hl hin
  rw [Steps.step_cons hl hin]
  exact runWord_refused_iff w (Steps.withInput rest s)

/-- The two fields are all of a word (R90): an instruction that has both is encoded by it. -/
theorem encode_eq_of_fields {sw : Nat} {i : Instr} {w : InputWord sw} (hop : i.op = opField sw w)
    (hdata : i.data sw = dataField sw w) : encode sw i = w := by
  have hw := BitVec.extractLsb'_append_extractLsb' (x := w.cast (Nat.add_comm sw 2))
  rw [BitVec.extractLsb'_cast, BitVec.extractLsb'_cast] at hw
  rw [encode, hop, hdata, opField, dataField, hw, BitVec.cast_cast, BitVec.cast_eq]

/-- Settles O2, row by row: the operand is the data field, which fits and is stored back as it was. -/
theorem wordIsEncodingOfItsInstruction : Obligations.WordIsEncodingOfItsInstruction := by
  intro sw w
  have hrow : ∀ op : BitVec 2, op = 0b00#2 ∨ op = 0b01#2 ∨ op = 0b10#2 ∨ op = 0b11#2 := by decide +kernel
  have hfits : dataFits sw (dataField sw w).toNat = true := decide_eq_true (dataField sw w).isLt
  have hdata : BitVec.ofNat sw (dataField sw w).toNat = dataField sw w := by
    rw [BitVec.ofNat_toNat, BitVec.setWidth_eq]
  obtain ⟨hidle, hsample, hrestart, hreserved⟩ := decodeWord_rows w
  rcases hrow (opField sw w) with hop | hop | hop | hop
  · rw [hidle hop]
    exact ⟨hfits, encode_eq_of_fields hop.symm hdata⟩
  · rw [hsample hop]
    exact ⟨decide_eq_true ⟨BitVec.le_two_mul_toInt, BitVec.two_mul_toInt_lt⟩,
      encode_eq_of_fields hop.symm BitVec.ofInt_toInt⟩
  · rw [hrestart hop]
    exact ⟨hfits, encode_eq_of_fields hop.symm hdata⟩
  · rw [hreserved hop]
    exact ⟨hfits, encode_eq_of_fields hop.symm hdata⟩

theorem dataField_encode (sw : Nat) (i : Instr) : dataField sw (encode sw i) = i.data sw := by
  rw [dataField, encode, BitVec.extractLsb'_cast, BitVec.extractLsb'_append_eq_right]

theorem toNat_ofNat_of_dataFits {sw d : Nat} (h : dataFits sw d = true) : (BitVec.ofNat sw d).toNat = d := by
  rw [BitVec.toNat_ofNat, Nat.mod_eq_of_lt (of_decide_eq_true h)]

/-- `s mod 2^SAMPLE_W` (R111) is read back as `s` (R92), the width 0 included. -/
theorem toInt_ofInt_of_sampleFits {sw : Nat} {v : Int} (h : sampleFits sw v = true) :
    (BitVec.ofInt sw v).toInt = v := by
  obtain ⟨hlo, hhi⟩ := of_decide_eq_true h
  rw [Int.mul_comm] at hlo hhi
  rw [BitVec.toInt_ofInt]
  exact Int.bmod_eq_of_le_mul_two (by exact_mod_cast hlo) (by exact_mod_cast hhi)

/-- A well-formed operand is read back from the field its row stores it in. -/
theorem decodeWord_encode {sw : Nat} {i : Instr} (h : i.wellFormed sw = true) : decodeWord sw (encode sw i) = i := by
  have hop : opField sw (encode sw i) = i.op := Laws.OpcodeField.opField_of_append sw i.op (i.data sw)
  have hdata := dataField_encode sw i
  obtain ⟨hidle, hsample, hrestart, hreserved⟩ := decodeWord_rows (encode sw i)
  cases i with
  | idle d => rw [hidle hop, hdata, Instr.data, toNat_ofNat_of_dataFits h]
  | sample v => rw [hsample hop, hdata, Instr.data, toInt_ofInt_of_sampleFits h]
  | restart d => rw [hrestart hop, hdata, Instr.data, toNat_ofNat_of_dataFits h]
  | reserved d => rw [hreserved hop, hdata, Instr.data, toNat_ofNat_of_dataFits h]

/-- The number of a word is in the port's range (R90). -/
theorem decode_toNat {sw : Nat} (w : InputWord sw) : decode sw w.toNat = .ok (decodeWord sw w) := by
  rw [decode_of_lt w.isLt, BitVec.ofNat_toNat, BitVec.setWidth_eq]

-- In line, so that no proof is left for the thread that ends the file, whose memory is nearly used up.
set_option Elab.async false in
/-- Settles O1, as a word and as a number. -/
theorem encodedInstructionDecodesBack : Obligations.EncodedInstructionDecodesBack := fun _ _ h =>
  ⟨decodeWord_encode h, (decode_toNat _).trans (congrArg _ (decodeWord_encode h))⟩

end Sys2Proof.Proofs.Encoding
